-- ==== Sys2Proof/Word.lean ====
section
/-! DEFINITION. The words of the machine: bytes, command words, response words, and the one division the rules use. -/

namespace Sys2Proof

/-- A byte (00_scope.md R9). -/
abbrev Byte := BitVec 8

/-- A command word or a data beat (30_encoding.md R90). -/
abbrev Word64 := BitVec 64

/-- The DATA part of a response (10_state.md R23). -/
abbrev Word32 := BitVec 32

/-- `ceil_div(a, b)` for b > 0 (00_scope.md R10). -/
def ceilDiv (a b : Nat) : Nat := (a + (b - 1)) / b

end Sys2Proof
end

