-- ==== Sys2Proof/Config.lean ====
section
/-! DEFINITION. What is fixed for one engine: the constants of 00_scope.md R6, the parameters of R7, and the free
value that stands for every unspecified byte (93_implementation_defined.md U1 to U3). -/

namespace Sys2Proof.Config

/-- `MTU`, payload bytes per packet at most (00_scope.md R6; log 16). -/
def mtu : Nat := 248

/-- `HDR_LEN` (00_scope.md R6). -/
def hdrLen : Nat := 4

/-- `MCTP_VERSION` (00_scope.md R6). -/
def mctpVersion : Byte := 0x01#8

/-- `NTAG`, the number of tags of one destination (00_scope.md R6). -/
def ntag : Nat := 8

/-- The parameters the source leaves open, an argument of the model (00_scope.md R7; log 1). -/
structure Params where
  /-- `NBUF`, packet buffers of the arena. -/
  nbuf : Nat
  /-- `HEADROOM`, bytes before the header. -/
  headroom : Nat
  /-- `TAILROOM`, bytes after a maximal packet. -/
  tailroom : Nat
  /-- `NCTX`, reassembly context slots. -/
  nctx : Nat
  /-- `MAX_MSG_LEN`, bytes of one accumulator. -/
  maxMsgLen : Nat
  /-- `TXMEM_CAP`, bytes of the TX message memory. -/
  txmemCap : Nat
  /-- `ACCEPT_EXTRA`, destination EIDs accepted besides LOCAL_EID. -/
  acceptExtra : List Byte
deriving DecidableEq, Repr

/-- `CAP`, the bytes of one backing array (00_scope.md R7). -/
def Params.cap (p : Params) : Nat := p.headroom + hdrLen + mtu + p.tailroom

/-- The constraints of 00_scope.md R7. -/
abbrev Params.legal (p : Params) : Prop :=
  1 ≤ p.nbuf ∧ p.nbuf ≤ 256 ∧ p.cap ≤ 65535 ∧ 1 ≤ p.nctx ∧ p.nctx ≤ 65535 ∧
  mtu ≤ p.maxMsgLen ∧ p.maxMsgLen ≤ 65535 ∧ 1 ≤ p.txmemCap ∧ p.txmemCap ≤ 65535

/-- The reference configuration (00_scope.md R7; 92_eei_decisions.md D20). -/
def Params.reference : Params :=
  { nbuf := 4, headroom := 4, tailroom := 4, nctx := 2, maxMsgLen := 1024, txmemCap := 1024, acceptExtra := [] }

/-- FREE VALUE. `draw_u8()`: the byte that draw number `draw` gives the address `addr` of the store it was made for.
Nothing constrains it (20_memory.md R63; 93_implementation_defined.md U1, U2, U3; log 2). -/
opaque drawnByte (draw addr : Nat) : Byte

end Sys2Proof.Config
end

