-- ==== Sys2Proof/Syntax.lean ====
section
/-! DEFINITION. The command set, whole: one constructor per row of the opcode map (30_encoding.md R103). -/

namespace Sys2Proof

/-- The RG field of RD8 and WR8 (30_encoding.md R96). The value 3 is a legal bit pattern that the command itself
faults on (BAD_REGION), so it is an operand like the others. -/
inductive Region where
  | hdr
  | payload
  | window
  | reserved
deriving DecidableEq, Repr

/-- How TXMSG gets its tag: TM = 0 with TAG, or TM = 1 (30_encoding.md R100, R108). -/
inductive TagMode where
  | explicit (tag : BitVec 3)
  | auto
deriving DecidableEq, Repr

/-- What CTXFLUSH flushes: ALL = 0 with SRC and TAG, or ALL = 1 (30_encoding.md R101, R108). -/
inductive FlushSel where
  | key (src : Byte) (tag : BitVec 3)
  | all
deriving DecidableEq, Repr

/-- The control fields of a header (42_codec.md R170). -/
structure Control where
  som : Bool
  eom : Bool
  seq : BitVec 2
  tagOwner : Bool
  tag : BitVec 3
deriving DecidableEq, Repr

/-- A command with its operands. The operands are the fields of the formats R92 to R102 of 30_encoding.md. -/
inductive Instr where
  /-- `NOP` (45_control.md R270). -/
  | nop
  /-- `ALLOC len` (41_arena.md R131). -/
  | alloc (len : BitVec 16)
  /-- `FREE h` (41_arena.md R132). -/
  | free (h : Byte)
  /-- `HDRV h` (41_arena.md R133). -/
  | hdrv (h : Byte)
  /-- `PAYV h` (41_arena.md R134). -/
  | payv (h : Byte)
  /-- `SIZE h` (41_arena.md R135). -/
  | size (h : Byte)
  /-- `WINV h` (41_arena.md R136). -/
  | winv (h : Byte)
  /-- `GROWF h, n` (41_arena.md R137). -/
  | growf (h : Byte) (n : BitVec 16)
  /-- `GROWB h, n` (41_arena.md R138). -/
  | growb (h : Byte) (n : BitVec 16)
  /-- `APPEND h, [bytes]` (41_arena.md R139); N16 is the number of bytes. -/
  | append (h : Byte) (data : List Byte)
  /-- `RD8 h, rg, idx` (41_arena.md R140). -/
  | rd8 (h : Byte) (rg : Region) (idx : BitVec 16)
  /-- `WR8 h, rg, idx, byte` (41_arena.md R141). -/
  | wr8 (h : Byte) (rg : Region) (idx : BitVec 16) (d : Byte)
  /-- `HENC dest, src, som, eom, seq, to, tag` (42_codec.md R172). -/
  | henc (dest src : Byte) (ctl : Control)
  /-- `HDEC hdr32` (42_codec.md R173). -/
  | hdec (hdr32 : Word32)
  /-- `TXWR addr, byte` (43_fragmentation.md R200). -/
  | txwr (addr : BitVec 16) (d : Byte)
  /-- `TXMSG dest, tag|auto, len` (43_fragmentation.md R201). -/
  | txmsg (dest : Byte) (mode : TagMode) (len : BitVec 16)
  /-- `TAGFREE dest, tag` (43_fragmentation.md R208). -/
  | tagfree (dest : Byte) (tag : BitVec 3)
  /-- `TXACK st` (43_fragmentation.md R206). -/
  | txack (st : Byte)
  /-- `RXPKT h` (44_reassembly.md R230). -/
  | rxpkt (h : Byte)
  /-- `CTXFLUSH src, tag` or `CTXFLUSH all` (44_reassembly.md R238). -/
  | ctxflush (sel : FlushSel)
  /-- `CSRR csr` (45_control.md R271). -/
  | csrr (csr : Byte)
  /-- `CSRW csr, val` (45_control.md R274 to R276). -/
  | csrw (csr : Byte) (val : Word32)
deriving DecidableEq, Repr

end Sys2Proof
end

