-- ==== Sys2Proof/WellFormed.lean ====
section
/-! DEFINITION. Which commands the encoding can hold. Every operand but APPEND's data has exactly the width of its
field, so the one check left is that APPEND's byte count fits N16 (30_encoding.md R95). -/

namespace Sys2Proof

/-- A command that has an encoding. -/
abbrev Instr.wf : Instr → Prop
  | .append _ data => data.length < 65536
  | _ => True

/-- The same check as a Bool. -/
def Instr.wfBool : Instr → Bool
  | .append _ data => decide (data.length < 65536)
  | _ => true

end Sys2Proof
end

