-- ==== Sys2Proof/Decode.lean ====
section
/-! DEFINITION. The decoder of command transactions (30_encoding.md R90 to R107), total on every list of 64-bit words,
and after it the encoder, written from the same tables. -/

namespace Sys2Proof

/-- The opcodes, by mnemonic (30_encoding.md R103). -/
inductive Opcode where
  | nop | alloc | free | hdrv | payv | size | winv | growf | growb | append | rd8 | wr8
  | henc | hdec
  | txwr | txmsg | tagfree | txack
  | rxpkt | ctxflush
  | csrr | csrw
deriving DecidableEq, Repr

/-- The OP value of each opcode (30_encoding.md R103). -/
def Opcode.code : Opcode → Byte
  | .nop => 0x00#8
  | .alloc => 0x01#8
  | .free => 0x02#8
  | .hdrv => 0x03#8
  | .payv => 0x04#8
  | .size => 0x05#8
  | .winv => 0x06#8
  | .growf => 0x07#8
  | .growb => 0x08#8
  | .append => 0x09#8
  | .rd8 => 0x0A#8
  | .wr8 => 0x0B#8
  | .henc => 0x10#8
  | .hdec => 0x11#8
  | .txwr => 0x20#8
  | .txmsg => 0x21#8
  | .tagfree => 0x22#8
  | .txack => 0x23#8
  | .rxpkt => 0x30#8
  | .ctxflush => 0x31#8
  | .csrr => 0x40#8
  | .csrw => 0x41#8

/-- Every opcode of the map, in its order (30_encoding.md R103). -/
def allOpcodes : List Opcode :=
  [.nop, .alloc, .free, .hdrv, .payv, .size, .winv, .growf, .growb, .append, .rd8, .wr8,
   .henc, .hdec, .txwr, .txmsg, .tagfree, .txack, .rxpkt, .ctxflush, .csrr, .csrw]

/-- The opcode an OP value stands for, none for a reserved one (30_encoding.md R103, R105). -/
def opcodeOf (op : Byte) : Option Opcode := allOpcodes.find? (fun o => o.code == op)

/-- The bits that are reserved whatever the other fields hold: the rsv rows of the formats R92 to R101, and of the
one-command exceptions they name (D8 of RD8, TM and LEN16 of TAGFREE, VAL32 of CSRR). -/
def Opcode.reservedMask : Opcode → Word64
  | .nop      => 0x00FFFFFFFFFFFFFF#64
  | .alloc    => 0x00FFFFFFFFFF0000#64
  | .free     => 0x0000FFFFFFFFFFFF#64
  | .hdrv     => 0x0000FFFFFFFFFFFF#64
  | .payv     => 0x0000FFFFFFFFFFFF#64
  | .size     => 0x0000FFFFFFFFFFFF#64
  | .winv     => 0x0000FFFFFFFFFFFF#64
  | .growf    => 0x0000FFFFFFFF0000#64
  | .growb    => 0x0000FFFFFFFF0000#64
  | .append   => 0x0000FFFFFFFF0000#64
  | .rd8      => 0x00003FFFFFFF0000#64
  | .wr8      => 0x00003F00FFFF0000#64
  | .henc     => 0x00000000FFFFFFFF#64
  | .hdec     => 0x00FFFFFF00000000#64
  | .txwr     => 0x00FFFF00FFFF0000#64
  | .txmsg    => 0x000078FFFFFF0000#64
  | .tagfree  => 0x0000F8FFFFFFFFFF#64
  | .txack    => 0x00FFFFFFFFFFFF00#64
  | .rxpkt    => 0x0000FFFFFFFFFFFF#64
  | .ctxflush => 0x000078FFFFFFFFFF#64
  | .csrr     => 0x0000FFFFFFFFFFFF#64
  | .csrw     => 0x0000FFFF00000000#64

/-- Why a word sequence is no command. -/
inductive DecodeError where
  /-- The OP value is not in the opcode map (30_encoding.md R105). -/
  | illegalOpcode
  /-- A reserved bit is set, unconditional or conditional (30_encoding.md R91; 60_exceptions.md R290). -/
  | reservedField
  /-- The sequence is no transaction of 30_encoding.md R90: it is empty, or holds more or fewer data beats than the
  command word asks for (log 8). -/
  | notATransaction
deriving DecidableEq, Repr

/-- `w[lo+width-1 : lo]` (00_scope.md R9). -/
def field (w : Word64) (lo width : Nat) : BitVec width := w.extractLsb' lo width

/-- `OP = w[63:56]` (30_encoding.md R91). -/
def opField (w : Word64) : Byte := field w 56 8

/-- How many data beats follow the command word (30_encoding.md R90). -/
def beatCount (w : Word64) : Nat :=
  if opField w = Opcode.append.code then ceilDiv (field w 0 16).toNat 8 else 0

/-- The RG field's meaning (10_state.md R32). -/
def regionOf (rg : BitVec 2) : Region :=
  if rg = 0#2 then .hdr else if rg = 1#2 then .payload else if rg = 2#2 then .window else .reserved

/-- `CtlDecode(c)` (42_codec.md R170). -/
def ctlDecode (c : Byte) : Control :=
  { som := c.getLsbD 7, eom := c.getLsbD 6, seq := c.extractLsb' 4 2, tagOwner := c.getLsbD 3, tag := c.extractLsb' 0 3 }

/-- The data byte at position j of APPEND's beats (30_encoding.md R102). -/
def beatByte (beats : List Word64) (j : Nat) : Byte := field (beats.getD (j / 8) 0#64) (56 - 8 * (j % 8)) 8

/-- The fields of a command word whose unconditional reserved bits are 0, with the conditional ones of R100 and R101
checked (30_encoding.md R92 to R102, R107). -/
def decodeFields (w : Word64) (beats : List Word64) : Opcode → Except DecodeError Instr
  | .nop => .ok .nop
  | .alloc => .ok (.alloc (field w 0 16))
  | .free => .ok (.free (field w 48 8))
  | .hdrv => .ok (.hdrv (field w 48 8))
  | .payv => .ok (.payv (field w 48 8))
  | .size => .ok (.size (field w 48 8))
  | .winv => .ok (.winv (field w 48 8))
  | .growf => .ok (.growf (field w 48 8) (field w 0 16))
  | .growb => .ok (.growb (field w 48 8) (field w 0 16))
  | .append => .ok (.append (field w 48 8) ((List.range (field w 0 16).toNat).map (beatByte beats)))
  | .rd8 => .ok (.rd8 (field w 48 8) (regionOf (field w 46 2)) (field w 0 16))
  | .wr8 => .ok (.wr8 (field w 48 8) (regionOf (field w 46 2)) (field w 0 16) (field w 32 8))
  | .henc => .ok (.henc (field w 48 8) (field w 40 8) (ctlDecode (field w 32 8)))
  | .hdec => .ok (.hdec (field w 0 32))
  | .txwr => .ok (.txwr (field w 0 16) (field w 32 8))
  | .txmsg =>
    if field w 47 1 = 0#1 then .ok (.txmsg (field w 48 8) (.explicit (field w 40 3)) (field w 0 16))
    else if field w 40 3 = 0#3 then .ok (.txmsg (field w 48 8) .auto (field w 0 16))
    else .error .reservedField
  | .tagfree => .ok (.tagfree (field w 48 8) (field w 40 3))
  | .txack => .ok (.txack (field w 0 8))
  | .rxpkt => .ok (.rxpkt (field w 48 8))
  | .ctxflush =>
    if field w 47 1 = 0#1 then .ok (.ctxflush (.key (field w 48 8) (field w 40 3)))
    else if field w 48 8 = 0#8 ∧ field w 40 3 = 0#3 then .ok (.ctxflush .all)
    else .error .reservedField
  | .csrr => .ok (.csrr (field w 48 8))
  | .csrw => .ok (.csrw (field w 48 8) (field w 0 32))

/-- The decoder: a transaction (the command word, then its data beats) to a command or a named error, in the order
OP, reserved bits, fields (30_encoding.md R107). -/
def decode : List Word64 → Except DecodeError Instr
  | [] => .error .notATransaction
  | w :: beats =>
    if beats.length ≠ beatCount w then .error .notATransaction
    else match opcodeOf (opField w) with
      | none => .error .illegalOpcode
      | some op => if w &&& op.reservedMask ≠ 0#64 then .error .reservedField else decodeFields w beats op

/-- The opcode of a command (30_encoding.md R103). -/
def Instr.opcode : Instr → Opcode
  | .nop => .nop
  | .alloc _ => .alloc
  | .free _ => .free
  | .hdrv _ => .hdrv
  | .payv _ => .payv
  | .size _ => .size
  | .winv _ => .winv
  | .growf _ _ => .growf
  | .growb _ _ => .growb
  | .append _ _ => .append
  | .rd8 _ _ _ => .rd8
  | .wr8 _ _ _ _ => .wr8
  | .henc _ _ _ => .henc
  | .hdec _ => .hdec
  | .txwr _ _ => .txwr
  | .txmsg _ _ _ => .txmsg
  | .tagfree _ _ => .tagfree
  | .txack _ => .txack
  | .rxpkt _ => .rxpkt
  | .ctxflush _ => .ctxflush
  | .csrr _ => .csrr
  | .csrw _ _ => .csrw

/-- The RG field of a region (10_state.md R32). -/
def Region.bits : Region → BitVec 2
  | .hdr => 0#2
  | .payload => 1#2
  | .window => 2#2
  | .reserved => 3#2

/-- A field's value `v` standing at bits `lo` and up of a command word (00_scope.md R9). -/
def place {n : Nat} (v : BitVec n) (lo : Nat) : Word64 := v.setWidth 64 <<< lo

/-- `CtlEncode(som, eom, seq, to, tag)` (42_codec.md R170). -/
def ctlEncode (c : Control) : Byte :=
  BitVec.ofBool c.som ++ BitVec.ofBool c.eom ++ c.seq ++ BitVec.ofBool c.tagOwner ++ c.tag

/-- The operand fields of each command at their places, every other bit 0, from the formats R92 to R101. -/
def Instr.operandBits : Instr → Word64
  | .nop => 0#64
  | .alloc len => place len 0
  | .free h => place h 48
  | .hdrv h => place h 48
  | .payv h => place h 48
  | .size h => place h 48
  | .winv h => place h 48
  | .growf h n => place h 48 ||| place n 0
  | .growb h n => place h 48 ||| place n 0
  | .append h data => place h 48 ||| place (BitVec.ofNat 16 data.length) 0
  | .rd8 h rg idx => place h 48 ||| place rg.bits 46 ||| place idx 0
  | .wr8 h rg idx d => place h 48 ||| place rg.bits 46 ||| place d 32 ||| place idx 0
  | .henc dest src ctl => place dest 48 ||| place src 40 ||| place (ctlEncode ctl) 32
  | .hdec hdr32 => place hdr32 0
  | .txwr addr d => place d 32 ||| place addr 0
  | .txmsg dest (.explicit tag) len => place dest 48 ||| place tag 40 ||| place len 0
  | .txmsg dest .auto len => place dest 48 ||| place 1#1 47 ||| place len 0
  | .tagfree dest tag => place dest 48 ||| place tag 40
  | .txack st => place st 0
  | .rxpkt h => place h 48
  | .ctxflush (.key src tag) => place src 48 ||| place tag 40
  | .ctxflush .all => place 1#1 47
  | .csrr csr => place csr 48
  | .csrw csr val => place csr 48 ||| place val 0

/-- The command word: OP above the operand fields (30_encoding.md R91). -/
def Instr.word (i : Instr) : Word64 := place i.opcode.code 56 ||| i.operandBits

/-- Data beat number j of APPEND: bytes 8j to 8j+7, the first the most significant, zeros past the last
(30_encoding.md R102; log 15). -/
def dataBeat (data : List Byte) (j : Nat) : Word64 :=
  place (data.getD (8 * j) 0#8) 56 ||| place (data.getD (8 * j + 1) 0#8) 48 |||
  place (data.getD (8 * j + 2) 0#8) 40 ||| place (data.getD (8 * j + 3) 0#8) 32 |||
  place (data.getD (8 * j + 4) 0#8) 24 ||| place (data.getD (8 * j + 5) 0#8) 16 |||
  place (data.getD (8 * j + 6) 0#8) 8 ||| place (data.getD (8 * j + 7) 0#8) 0

/-- The data beats that follow the command word (30_encoding.md R90, R102). -/
def Instr.beats : Instr → List Word64
  | .append _ data => (List.range (ceilDiv data.length 8)).map (dataBeat data)
  | _ => []

/-- The encoder: the words of a well-formed command, in the order they cross the command port. -/
def encode (i : Instr) : List Word64 := i.word :: i.beats

/-- The transaction whose bits are `w`, numbered from the least significant bit of the command word, with every bit
from `nbits` up 0: the command word, then as many data beats as it asks for. -/
def tableTransaction (nbits w : Nat) : List Word64 :=
  let v := w % 2 ^ nbits
  BitVec.ofNat 64 v ::
    (List.range (beatCount (BitVec.ofNat 64 v))).map (fun j => BitVec.ofNat 64 (v >>> (64 * (j + 1))))

/-- What the decoder reads from an instruction whose bits are `w`. -/
def decodeTableWord (nbits w : Nat) : Option Instr :=
  match decode (tableTransaction nbits w) with
  | .ok i => some i
  | .error _ => none

end Sys2Proof
end

