-- ==== Sys2Proof/Machine/State.lean ====
section
/-! DEFINITION. The state of the engine, whole (10_state.md), the reasons a step can stop, and the state right after
reset (10_state.md R40, 70_reset_and_hazards.md R320). Plain data. -/

namespace Sys2Proof.Machine

/-- The status codes by name (30_encoding.md R104). Their numbers are `Status.code`, in Machine/Flags.lean. -/
inductive Status where
  | ok
  | errLen
  | errNoBuf
  | errUnderflow
  | errFull
  | errBusy
  | errTagExhausted
  | errNoRoute
  | errTxDisabled
  | errBinding
  | errBadVersion
  | errAlreadyBound
  | rxAccepted
  | rxDelivered
  | rxDropVersion
  | rxDropRoute
  | rxDropLength
  | rxDropNoCtx
  | rxDropSeq
  | rxDropOverflow
  | rxDropNoSlot
  | fault
  | faulted
deriving DecidableEq, Repr

/-- The fault causes by name (60_exceptions.md R290). Their numbers are `Cause.code`, in Machine/Flags.lean. -/
inductive Cause where
  | noFault
  | illegalOpcode
  | reservedField
  | badHandle
  | notAllocated
  | owned
  | badRegion
  | outOfBounds
  | badCsr
  | unexpectedAck
deriving DecidableEq, Repr

/-- A response (10_state.md R23). -/
structure Response where
  status : Status
  data   : Word32
deriving DecidableEq, Repr

/-- CFG.GATE_POLICY (10_state.md R24, 43_fragmentation.md R204). -/
inductive GatePolicy where
  | fail
  | block
deriving DecidableEq, Repr

/-- CSR 0x00 CFG, its stored fields (10_state.md R24). -/
structure CfgReg where
  localEid   : Byte
  bound      : Bool
  gatePolicy : GatePolicy
deriving DecidableEq, Repr

/-- CSR 0x03 FAULT, its stored fields (10_state.md R27). -/
structure FaultReg where
  valid  : Bool
  cause  : Cause
  opcode : Byte
  info   : Byte
deriving DecidableEq, Repr

/-- A byte-addressed store (20_memory.md R60): the bytes written since its last draw, addresses strictly rising, and the
number of that draw. An unlisted address has not been written since the draw and reads as the drawn byte
(20_memory.md R63; log 2, log 3). -/
structure Memory where
  cells : List Host.Cell
  draw  : Nat
deriving DecidableEq, Repr

/-- The canonical form: addresses strictly rising. An unlisted address holds no written value, so no entry can equal
what an unlisted address holds (log 3). -/
abbrev Memory.wf (m : Memory) : Prop := m.cells.Pairwise (fun x y => x.1 < y.1)

/-- A store nothing has written since draw number `draw`. -/
def Memory.drawn (draw : Nat) : Memory := { cells := [], draw := draw }

/-- Who holds a packet buffer (10_state.md R30). -/
inductive Owner where
  | cmd
  | txeng
deriving DecidableEq, Repr

/-- One packet buffer (10_state.md R30). Offsets are unbounded naturals, checked against their bounds (00_scope.md R10;
log 9). `endOff` is the rule's `end`. -/
structure Buffer where
  alloc  : Bool
  owner  : Owner
  start  : Nat
  hdr    : Nat
  endOff : Nat
  data   : Memory
deriving DecidableEq, Repr

/-- One reassembly context slot (10_state.md R33). -/
structure Context where
  valid : Bool
  src   : Byte
  tag   : BitVec 3
  exp   : BitVec 2
  len   : Nat
  acc   : Memory
deriving DecidableEq, Repr

/-- `Tx.phase` (10_state.md R36). -/
inductive Phase where
  | idle
  | next
  | waitAck
deriving DecidableEq, Repr

/-- The TX engine (10_state.md R36). -/
structure TxEngine where
  phase    : Phase
  dest     : Byte
  tag      : BitVec 3
  tagAlloc : Bool
  len      : Nat
  n        : Nat
  i        : Nat
  cur      : Nat
  code     : Status
deriving DecidableEq, Repr

/-- The output events (10_state.md R39). -/
inductive Event where
  /-- `PKT_OUT(h, frame)`. -/
  | pktOut (h : Nat) (frame : List Byte)
  /-- `TX_DONE(code)`. -/
  | txDone (code : Status)
  /-- `DELIVER(src, len, bytes)`. -/
  | deliver (src : Byte) (len : Nat) (bytes : List Byte)
  /-- `LOG(reason, src, tag)`. -/
  | log (reason : Status) (src : Byte) (tag : BitVec 3)
  /-- `RESET`. -/
  | reset
deriving DecidableEq, Repr

/-- One step the environment takes next (10_state.md R20, 20_memory.md R73; log 4). -/
inductive Input where
  /-- HOST or BINDING offers a command transaction: the command word, then its data beats (30_encoding.md R90). -/
  | command (words : List Word64)
  /-- The turn of the TX engine's sequencer, TXENG. -/
  | txEngine
  /-- The reset input, RESET. -/
  | reset
deriving DecidableEq, Repr

/-- The whole state. `params` is fixed for one engine (00_scope.md R7); `cfg` to `tx` are the spec's state
(10_state.md R40); `events` and `response` are the spec's observations (R39, R23); `draws` and `inputs` are the
model's own (log 2, log 4). -/
structure State where
  /-- The parameters of this engine (00_scope.md R7; log 1). No step writes them. -/
  params   : Config.Params
  /-- CFG (10_state.md R24). -/
  cfg      : CfgReg
  /-- GATE.TX_ENABLED (10_state.md R25). -/
  gate     : Bool
  /-- FAULT (10_state.md R27). -/
  fault    : FaultReg
  /-- `Buf[0 .. NBUF-1]` (10_state.md R30). -/
  bufs     : List Buffer
  /-- `Ctx[0 .. NCTX-1]` (10_state.md R33). -/
  ctxs     : List Context
  /-- The tag table: the busy entries (d, t) of TagBusy, each as the number 8 d + t, strictly rising
  (10_state.md R35; log 14). -/
  busyTags : List Nat
  /-- `TxMem` (10_state.md R36). -/
  txMem    : Memory
  /-- The TX engine (10_state.md R36). -/
  tx       : TxEngine
  /-- The event history, oldest first (10_state.md R39; log 6). -/
  events   : List Event
  /-- The response of the step just taken, none if it was no command (10_state.md R23; log 5). -/
  response : Option Response
  /-- The number of the next draw of unspecified bytes (log 2). -/
  draws    : Nat
  /-- What the environment does next, oldest first (log 4). -/
  inputs   : List Input
deriving DecidableEq, Repr

/-- Why a step can stop the model. The spec's own faults are not here: they are recorded in FAULT and answered as a
next state (60_exceptions.md R291). -/
inductive Fault where
  /-- Raised by RD8, WR8, APPEND and RXPKT if they would call an arena primitive with its requirement false
  (20_memory.md R61: a byte the arena does not have). Safe. No state that meets the invariant raises it (log 10). -/
  | arenaRequirement
  /-- Raised by TXWR and the TX engine's step if they would call a TxMem primitive with its requirement false
  (20_memory.md R62: a byte TxMem does not have). Safe. No state that meets the invariant raises it (log 10). -/
  | txMemRequirement
deriving DecidableEq, Repr

/-- Why the model refuses a step. -/
inductive Refusal where
  /-- An instruction with no meaning yet. No instruction is left without one. Safe. -/
  | notModelled (mnemonic : String)
  /-- Raised by the command port where the environment offers a word sequence that is no transaction of
  30_encoding.md R90 (none, or the wrong number of data beats). Safe (log 8). -/
  | notATransaction
deriving DecidableEq, Repr

/-- What a step or a meaning answers. -/
abbrev Result := Host.Outcome State Fault Refusal

/-- Buffer h right after a reset whose draws begin at `draw` (10_state.md R40). -/
def Buffer.afterReset (p : Config.Params) (draw : Nat) : Buffer :=
  { alloc := false, owner := .cmd, start := p.headroom, hdr := p.headroom,
    endOff := p.headroom + Config.hdrLen, data := Memory.drawn draw }

/-- A context slot right after reset (10_state.md R40). -/
def Context.afterReset (draw : Nat) : Context :=
  { valid := false, src := 0x00#8, tag := 0#3, exp := 0#2, len := 0, acc := Memory.drawn draw }

/-- The TX engine right after reset (10_state.md R40). -/
def TxEngine.afterReset : TxEngine :=
  { phase := .idle, dest := 0x00#8, tag := 0#3, tagAlloc := false, len := 0, n := 0, i := 0, cur := 0, code := .ok }

/-- Every element at its reset value (10_state.md R40; 70_reset_and_hazards.md R320), for an engine with parameters `p`
whose next draw is number `draw`. -/
def State.afterReset (p : Config.Params) (draw : Nat) : State :=
  { params := p
    cfg := { localEid := 0x00#8, bound := false, gatePolicy := .fail }
    gate := true
    fault := { valid := false, cause := .noFault, opcode := 0x00#8, info := 0x00#8 }
    bufs := (List.range p.nbuf).map (fun h => Buffer.afterReset p (draw + h))
    ctxs := (List.range p.nctx).map (fun k => Context.afterReset (draw + p.nbuf + k))
    busyTags := []
    txMem := Memory.drawn (draw + p.nbuf + p.nctx)
    tx := TxEngine.afterReset
    events := [.reset]
    response := none
    draws := draw + p.nbuf + p.nctx + 1
    inputs := [] }

/-- The machine right after reset, in the reference configuration (00_scope.md R7; log 1, log 6). -/
def State.reset : State := State.afterReset Config.Params.reference 0

end Sys2Proof.Machine
end

