-- ==== Sys2Proof/Machine/Ops.lean ====
section
/-! DEFINITION. The named operations over stores, buffers, contexts, tags and the observations, and taking a fault as one
shared operation with reset, the only way back, beside it. -/

namespace Sys2Proof.Machine

/-! ### Byte stores -/

/-- The byte written at an address, none where nothing has been written since the draw. -/
def findCell : List Host.Cell → Nat → Option Byte
  | [], _ => none
  | c :: rest, a => if c.1 = a then some c.2 else findCell rest a

/-- The cells with the byte at `a` set to `v`, keeping the addresses rising. -/
def putCell : List Host.Cell → Nat → Byte → List Host.Cell
  | [], a, v => [(a, v)]
  | c :: rest, a, v =>
    if a < c.1 then (a, v) :: c :: rest
    else if c.1 = a then (a, v) :: rest
    else c :: putCell rest a v

/-- What an address reads as: the last byte written since the draw, else the drawn byte (20_memory.md R63, R72; log 2). -/
def Memory.read (m : Memory) (a : Nat) : Byte :=
  match findCell m.cells a with
  | some v => v
  | none => Config.drawnByte m.draw a

/-- Writing one byte. -/
def Memory.write (m : Memory) (a : Nat) (v : Byte) : Memory := { m with cells := putCell m.cells a v }

/-- The `n` bytes from `a` up, in ascending order. -/
def Memory.readN (m : Memory) : Nat → Nat → List Byte
  | _, 0 => []
  | a, n + 1 => m.read a :: m.readN (a + 1) n

/-- Writing the bytes `bs` from `a` up, in ascending order. -/
def Memory.writeN (m : Memory) (a : Nat) : List Byte → Memory
  | [] => m
  | b :: bs => (m.write a b).writeN (a + 1) bs

/-! ### Observations -/

/-- `respond(status, data)` (10_state.md R23; 00_scope.md R11). -/
def State.respond (s : State) (st : Status) (data : Word32) : State := { s with response := some ⟨st, data⟩ }

/-- `emit E(...)` (10_state.md R39; 00_scope.md R11). -/
def State.emit (s : State) (e : Event) : State := { s with events := s.events ++ [e] }

/-! ### Taking a fault, and the way back -/

/-- `raise Fault(cause, info)` by a command whose OP field is `op`: the record, and the response (FAULT, 0); nothing
else changes (60_exceptions.md R291). -/
def State.raise (s : State) (op : Byte) (cause : Cause) (info : Byte) : State :=
  ({ s with fault := { valid := true, cause := cause, opcode := op, info := info } } : State).respond .fault 0#32

/-- The reset step (70_reset_and_hazards.md R320 to R322): every element of the state at its reset value, fresh draws for
every store, and the event RESET. There is no other way out of a fault (60_exceptions.md R294). What the environment
does next is not the engine's to clear (log 4). -/
def resetStep (s : State) : State :=
  { State.afterReset s.params s.draws with events := s.events ++ [.reset], inputs := s.inputs }

/-- The engine is halted (10_state.md R38). -/
def State.halted (s : State) : Bool := s.fault.valid

/-- A command that is not executed while the engine is halted: it answers (FAULTED, 0) and changes nothing
(60_exceptions.md R292, R293 item 1). -/
def whenRunning (s : State) (k : Result) : Result := if s.halted then .next (s.respond .faulted 0#32) else k

/-! ### The arena -/

/-- `NBUF`: the number of buffers the engine has (10_state.md R30). -/
def State.nbuf (s : State) : Nat := s.bufs.length

/-- `CAP` (00_scope.md R7). -/
def State.cap (s : State) : Nat := s.params.cap

/-- What a handle with no buffer reads as: a buffer that is not allocated (log 19). -/
def Buffer.absent : Buffer :=
  { alloc := false, owner := .cmd, start := 0, hdr := 0, endOff := 0, data := Memory.drawn 0 }

/-- `Buf[h]` (10_state.md R30). -/
def State.buf (s : State) (h : Nat) : Buffer := s.bufs.getD h Buffer.absent

/-- `Buf[h] <- b`. -/
def State.setBuf (s : State) (h : Nat) (b : Buffer) : State := { s with bufs := s.bufs.set h b }

/-- `min { h | ¬Buf[h].alloc }`, none if every buffer is allocated (41_arena.md R131; 43_fragmentation.md R203). -/
def State.freeHandle (s : State) : Option Nat := s.bufs.findIdx? (fun b => !b.alloc)

/-- The allocation of buffer h for `owner` with `plen` payload bytes: the window of a header and the payload, every byte
of the backing array drawn anew (41_arena.md R131; 43_fragmentation.md R203; 20_memory.md R63). -/
def State.allocBuffer (s : State) (h : Nat) (owner : Owner) (plen : Nat) : State :=
  { s with
    bufs := s.bufs.set h
      { alloc := true, owner := owner, start := s.params.headroom, hdr := s.params.headroom,
        endOff := s.params.headroom + Config.hdrLen + plen, data := Memory.drawn s.draws }
    draws := s.draws + 1 }

/-- The requirement of the arena primitives for the `n` bytes from offset `off` of buffer h (20_memory.md R61). Where
there is no byte there is no call. -/
def State.arenaOk (s : State) (h off n : Nat) : Bool :=
  n == 0 || (decide (h < s.nbuf) && (s.buf h).alloc && decide (off + n ≤ s.cap))

/-- `ArenaRead(h, off + j) for j in 0..n-1`, none if the requirement is false (20_memory.md R61). -/
def State.arenaReadN (s : State) (h off n : Nat) : Option (List Byte) :=
  if s.arenaOk h off n then some ((s.buf h).data.readN off n) else none

/-- `ArenaWrite(h, off + j, bs[j])` for every j, none if the requirement is false (20_memory.md R61). -/
def State.arenaWriteN (s : State) (h off : Nat) (bs : List Byte) : Option State :=
  if s.arenaOk h off bs.length then
    some (s.setBuf h { s.buf h with data := (s.buf h).data.writeN off bs })
  else none

/-- `ArenaRead(h, off)` (20_memory.md R61). -/
def State.arenaRead (s : State) (h off : Nat) : Option Byte :=
  if s.arenaOk h off 1 then some ((s.buf h).data.read off) else none

/-- `ArenaWrite(h, off, v)` (20_memory.md R61). -/
def State.arenaWrite (s : State) (h off : Nat) (v : Byte) : Option State :=
  if s.arenaOk h off 1 then some (s.setBuf h { s.buf h with data := (s.buf h).data.write off v }) else none

/-! ### The TX message memory -/

/-- `TxMemRead(a + j) for j in 0..n-1`, none if the requirement is false (20_memory.md R62). -/
def State.txMemReadN (s : State) (a n : Nat) : Option (List Byte) :=
  if n == 0 || decide (a + n ≤ s.params.txmemCap) then some (s.txMem.readN a n) else none

/-- `TxMemWrite(a, v)`, none if the requirement is false (20_memory.md R62). -/
def State.txMemWrite (s : State) (a : Nat) (v : Byte) : Option State :=
  if a < s.params.txmemCap then some { s with txMem := s.txMem.write a v } else none

/-! ### The tag table -/

/-- The number of the entry (d, t) of the tag table. -/
def tagKey (d : Byte) (t : BitVec 3) : Nat := 8 * d.toNat + t.toNat

/-- `x` put into a strictly rising list, once. -/
def insertRising (x : Nat) : List Nat → List Nat
  | [] => [x]
  | y :: rest => if x < y then x :: y :: rest else if x = y then y :: rest else y :: insertRising x rest

/-- `TagBusy[d][t]` (10_state.md R35). -/
def State.tagBusy (s : State) (d : Byte) (t : BitVec 3) : Bool := s.busyTags.contains (tagKey d t)

/-- `TagBusy[d][t] <- true`. -/
def State.takeTag (s : State) (d : Byte) (t : BitVec 3) : State :=
  { s with busyTags := insertRising (tagKey d t) s.busyTags }

/-- `TagBusy[d][t] <- false`. -/
def State.releaseTag (s : State) (d : Byte) (t : BitVec 3) : State :=
  { s with busyTags := s.busyTags.filter (fun k => k != tagKey d t) }

/-- `AllocTag(d)`: the lowest tag of `d` that is not busy (43_fragmentation.md R193). -/
def State.allocTag (s : State) (d : Byte) : Option (BitVec 3) :=
  ((List.range Config.ntag).map (BitVec.ofNat 3)).find? (fun t => !s.tagBusy d t)

/-! ### The reassembly contexts -/

/-- `NCTX`: the number of context slots the engine has (10_state.md R33). -/
def State.nctx (s : State) : Nat := s.ctxs.length

/-- `Ctx[k]` (10_state.md R33). -/
def State.ctx (s : State) (k : Nat) : Context := s.ctxs.getD k (Context.afterReset 0)

/-- `Ctx[k] <- c`. -/
def State.setCtx (s : State) (k : Nat) (c : Context) : State := { s with ctxs := s.ctxs.set k c }

/-- `Lookup(src, tag)`: the valid slot with that key, the lowest if a state holds several (10_state.md R34; log 13). -/
def State.lookup (s : State) (src : Byte) (tag : BitVec 3) : Option Nat :=
  s.ctxs.findIdx? (fun c => c.valid && c.src == src && c.tag == tag)

/-- Destroying the context in slot k: its valid bit, nothing else (44_reassembly.md R237). -/
def State.destroyCtx (s : State) (k : Nat) : State := s.setCtx k { s.ctx k with valid := false }

/-- `min { k | ¬Ctx[k].valid }`, none if every slot is valid (44_reassembly.md R233). -/
def State.freeSlot (s : State) : Option Nat := s.ctxs.findIdx? (fun c => !c.valid)

/-- The number of live contexts (10_state.md R28). -/
def State.liveContexts (s : State) : Nat := s.ctxs.countP (fun c => c.valid)

end Sys2Proof.Machine
end

