-- ==== Sys2Proof/Machine/Operands.lean ====
section
/-! DEFINITION. The operand forms: a handle with its checks, a region with its bounds, lengths and indices
(30_encoding.md R92 to R102; 10_state.md R32; 41_arena.md R130). -/

namespace Sys2Proof.Machine

/-- `CheckHandle(H)` before `k`, which gets the buffer (41_arena.md R130). Not executed while halted. -/
def withHandle (s : State) (op : Opcode) (h : Byte) (k : Buffer → Result) : Result :=
  whenRunning s <|
    if s.nbuf ≤ h.toNat then .next (s.raise op.code .badHandle h)
    else if (s.buf h.toNat).alloc then k (s.buf h.toNat)
    else .next (s.raise op.code .notAllocated h)

/-- CheckHandle, then the ownership check of FREE and RXPKT (41_arena.md R132; 44_reassembly.md R230). -/
def withOwnHandle (s : State) (op : Opcode) (h : Byte) (k : Buffer → Result) : Result :=
  withHandle s op h fun b => if b.owner = .txeng then .next (s.raise op.code .owned h) else k b

/-- `SIZE`: the length of the PAYLOAD region (10_state.md R32). -/
def Buffer.payloadLen (b : Buffer) : Nat := b.endOff - b.hdr - Config.hdrLen

/-- `Region(H, RG)`: base offset and length from the current bounds, none for the reserved region (10_state.md R32). -/
def Buffer.region (b : Buffer) : Region → Option (Nat × Nat)
  | .hdr => some (b.hdr, Config.hdrLen)
  | .payload => some (b.hdr + Config.hdrLen, b.payloadLen)
  | .window => some (b.start, b.endOff - b.start)
  | .reserved => none

/-- The checks RD8 and WR8 share, in their order: handle, allocation, region, bounds; `k` gets the buffer's offset that
the index names (41_arena.md R140, R141; 60_exceptions.md R293). -/
def withByte (s : State) (op : Opcode) (h : Byte) (rg : Region) (idx : BitVec 16) (k : Nat → Result) : Result :=
  withHandle s op h fun b =>
    match b.region rg with
    | none => .next (s.raise op.code .badRegion h)
    | some (base, len) =>
      if len ≤ idx.toNat then .next (s.raise op.code .outOfBounds h) else k (base + idx.toNat)

/-- A view as response data: the base in DATA[31:16], the length in DATA[15:0] (41_arena.md R133, R134, R136). -/
def viewData (base len : Nat) : Word32 := BitVec.ofNat 16 base ++ BitVec.ofNat 16 len

end Sys2Proof.Machine
end

