-- ==== Sys2Proof/Machine/Arena.lean ====
section
/-! DEFINITION. The packet buffer arena commands (41_arena.md R130 to R142). -/

namespace Sys2Proof.Machine

/-- `ALLOC len` (41_arena.md R131). -/
def execAlloc (len : BitVec 16) (s : State) : Result :=
  whenRunning s <|
    if Config.mtu < len.toNat then .next (s.respond .errLen 0#32)
    else match s.freeHandle with
      | none => .next (s.respond .errNoBuf 0#32)
      | some h => .next ((s.allocBuffer h .cmd len.toNat).respond .ok (BitVec.ofNat 32 h))

/-- `FREE h` (41_arena.md R132). -/
def execFree (h : Byte) (s : State) : Result :=
  withOwnHandle s .free h fun b => .next ((s.setBuf h.toNat { b with alloc := false }).respond .ok 0#32)

/-- `HDRV h` (41_arena.md R133). -/
def execHdrv (h : Byte) (s : State) : Result :=
  withHandle s .hdrv h fun b => .next (s.respond .ok (viewData b.hdr Config.hdrLen))

/-- `PAYV h` (41_arena.md R134). -/
def execPayv (h : Byte) (s : State) : Result :=
  withHandle s .payv h fun b => .next (s.respond .ok (viewData (b.hdr + Config.hdrLen) b.payloadLen))

/-- `SIZE h` (41_arena.md R135). -/
def execSize (h : Byte) (s : State) : Result :=
  withHandle s .size h fun b => .next (s.respond .ok (BitVec.ofNat 32 b.payloadLen))

/-- `WINV h` (41_arena.md R136). -/
def execWinv (h : Byte) (s : State) : Result :=
  withHandle s .winv h fun b => .next (s.respond .ok (viewData b.start (b.endOff - b.start)))

/-- `GROWF h, n` (41_arena.md R137). -/
def execGrowf (h : Byte) (n : BitVec 16) (s : State) : Result :=
  withHandle s .growf h fun b =>
    if b.start < n.toNat then .next (s.respond .errUnderflow 0#32)
    else .next ((s.setBuf h.toNat { b with start := b.start - n.toNat }).respond .ok 0#32)

/-- `GROWB h, n` (41_arena.md R138). -/
def execGrowb (h : Byte) (n : BitVec 16) (s : State) : Result :=
  withHandle s .growb h fun b =>
    if s.cap < b.endOff + n.toNat then .next (s.respond .errFull 0#32)
    else .next ((s.setBuf h.toNat { b with endOff := b.endOff + n.toNat }).respond .ok 0#32)

/-- `APPEND h, [bytes]` (41_arena.md R139): all or nothing. -/
def execAppend (h : Byte) (data : List Byte) (s : State) : Result :=
  withHandle s .append h fun b =>
    if s.cap < b.endOff + data.length then .next (s.respond .errFull 0#32)
    else match s.arenaWriteN h.toNat b.endOff data with
      | none => .fault .arenaRequirement
      | some t =>
        .next ((t.setBuf h.toNat { t.buf h.toNat with endOff := b.endOff + data.length }).respond .ok 0#32)

/-- `RD8 h, rg, idx` (41_arena.md R140). -/
def execRd8 (h : Byte) (rg : Region) (idx : BitVec 16) (s : State) : Result :=
  withByte s .rd8 h rg idx fun off =>
    match s.arenaRead h.toNat off with
    | none => .fault .arenaRequirement
    | some v => .next (s.respond .ok (v.setWidth 32))

/-- `WR8 h, rg, idx, byte` (41_arena.md R141). -/
def execWr8 (h : Byte) (rg : Region) (idx : BitVec 16) (d : Byte) (s : State) : Result :=
  withByte s .wr8 h rg idx fun off =>
    match s.arenaWrite h.toNat off d with
    | none => .fault .arenaRequirement
    | some t => .next (t.respond .ok 0#32)

end Sys2Proof.Machine
end

