-- ==== Sys2Proof/Machine/Header.lean ====
section
/-! DEFINITION. The 4-byte header (42_codec.md R170, R171) and the packing of bytes into 32-bit words
(20_memory.md R66). The control byte is `ctlEncode` and `ctlDecode` of Decode.lean. -/

namespace Sys2Proof.Machine

/-- Four bytes as a 32-bit word, the earlier byte the more significant (20_memory.md R66). -/
def pack32 (b0 b1 b2 b3 : Byte) : Word32 := b0 ++ b1 ++ b2 ++ b3

/-- `HdrEncode(dest, src, ...)`, the header's bytes in wire order (42_codec.md R171, 20_memory.md R64). -/
def hdrEncode (dest src : Byte) (ctl : Control) : List Byte := [Config.mctpVersion, dest, src, ctlEncode ctl]

/-- What `HdrDecode` gives (42_codec.md R171). -/
structure Header where
  ok   : Bool
  ver  : Byte
  dest : Byte
  src  : Byte
  ctl  : Control
deriving DecidableEq, Repr

/-- `HdrDecode([b0, b1, b2, b3])`: the whole version byte is compared (42_codec.md R171). -/
def hdrDecode (b0 b1 b2 b3 : Byte) : Header :=
  { ok := b0 == Config.mctpVersion, ver := b0, dest := b1, src := b2, ctl := ctlDecode b3 }

/-- `HdrDecode` of four bytes in a list. -/
def hdrDecodeBytes (bs : List Byte) : Header :=
  hdrDecode (bs.getD 0 0#8) (bs.getD 1 0#8) (bs.getD 2 0#8) (bs.getD 3 0#8)

end Sys2Proof.Machine
end

