-- ==== Sys2Proof/Machine/Codec.lean ====
section
/-! DEFINITION. The header codec commands (42_codec.md R172, R173). -/

namespace Sys2Proof.Machine

/-- `HENC dest, src, som, eom, seq, to, tag` (42_codec.md R172). -/
def execHenc (dest src : Byte) (ctl : Control) (s : State) : Result :=
  whenRunning s (.next (s.respond .ok (pack32 Config.mctpVersion dest src (ctlEncode ctl))))

/-- `HDEC hdr32` (42_codec.md R173): the fields are answered whether or not the version is right. -/
def execHdec (hdr32 : Word32) (s : State) : Result :=
  let hd := hdrDecode (hdr32.extractLsb' 24 8) (hdr32.extractLsb' 16 8) (hdr32.extractLsb' 8 8) (hdr32.extractLsb' 0 8)
  whenRunning s <|
    .next (s.respond (if hd.ok then .ok else .errBadVersion) (pack32 hd.dest hd.src hd.ver (ctlEncode hd.ctl)))

end Sys2Proof.Machine
end

