-- ==== Sys2Proof/Machine/Flags.lean ====
section
/-! DEFINITION. What stands where an instruction set has flags (00_scope.md R12): the numbers of the status codes and fault
causes, and the values of the control and status registers. -/

namespace Sys2Proof.Machine

/-- The number of a status code (30_encoding.md R104). -/
def Status.code : Status → Byte
  | .ok => 0x00#8
  | .errLen => 0x01#8
  | .errNoBuf => 0x02#8
  | .errUnderflow => 0x03#8
  | .errFull => 0x04#8
  | .errBusy => 0x05#8
  | .errTagExhausted => 0x06#8
  | .errNoRoute => 0x07#8
  | .errTxDisabled => 0x08#8
  | .errBinding => 0x09#8
  | .errBadVersion => 0x0A#8
  | .errAlreadyBound => 0x0B#8
  | .rxAccepted => 0x10#8
  | .rxDelivered => 0x11#8
  | .rxDropVersion => 0x12#8
  | .rxDropRoute => 0x13#8
  | .rxDropLength => 0x14#8
  | .rxDropNoCtx => 0x15#8
  | .rxDropSeq => 0x16#8
  | .rxDropOverflow => 0x17#8
  | .rxDropNoSlot => 0x18#8
  | .fault => 0xFE#8
  | .faulted => 0xFF#8

/-- The number of a fault cause, the value of FAULT.CAUSE (60_exceptions.md R290). -/
def Cause.code : Cause → BitVec 4
  | .noFault => 0x0#4
  | .illegalOpcode => 0x1#4
  | .reservedField => 0x2#4
  | .badHandle => 0x3#4
  | .notAllocated => 0x4#4
  | .owned => 0x5#4
  | .badRegion => 0x6#4
  | .outOfBounds => 0x7#4
  | .badCsr => 0x8#4
  | .unexpectedAck => 0x9#4

/-- CFG.GATE_POLICY as a bit (10_state.md R24). -/
def GatePolicy.bit : GatePolicy → Bool
  | .fail => false
  | .block => true

/-- The policy a bit stands for (10_state.md R24). -/
def GatePolicy.ofBit (b : Bool) : GatePolicy := if b then .block else .fail

/-- TXSTAT.HELD (10_state.md R26): the TX engine is held by a closed gate under BLOCK. -/
def State.held (s : State) : Bool :=
  decide (s.tx.phase = .next) && !s.gate && decide (s.cfg.gatePolicy = .block)

/-- TXSTAT.WAIT_ACK (10_state.md R26). -/
def State.waitingAck (s : State) : Bool := decide (s.tx.phase = .waitAck)

/-- TXSTAT.BUSY (10_state.md R26). -/
def State.busy (s : State) : Bool := decide (s.tx.phase ≠ .idle)

/-- ARENA.FREE_COUNT (10_state.md R28). -/
def State.freeCount (s : State) : Nat := s.bufs.countP (fun b => !b.alloc)

/-- CSR 0x00 CFG (45_control.md R272). -/
def State.csrCfg (s : State) : Word32 :=
  0#22 ++ BitVec.ofBool s.cfg.gatePolicy.bit ++ BitVec.ofBool s.cfg.bound ++ s.cfg.localEid

/-- CSR 0x01 GATE (45_control.md R272). -/
def State.csrGate (s : State) : Word32 := 0#31 ++ BitVec.ofBool s.gate

/-- CSR 0x02 TXSTAT (45_control.md R272). -/
def State.csrTxStat (s : State) : Word32 :=
  BitVec.ofNat 16 s.tx.i ++ s.tx.code.code ++ 0#5 ++ BitVec.ofBool s.held ++ BitVec.ofBool s.waitingAck ++
    BitVec.ofBool s.busy

/-- CSR 0x03 FAULT (45_control.md R272). -/
def State.csrFault (s : State) : Word32 :=
  0#8 ++ s.fault.info ++ s.fault.opcode ++ s.fault.cause.code ++ 0#3 ++ BitVec.ofBool s.fault.valid

/-- CSR 0x04 ARENA (45_control.md R272). -/
def State.csrArena (s : State) : Word32 := BitVec.ofNat 16 s.nbuf ++ BitVec.ofNat 16 s.freeCount

/-- CSR 0x05 CTX (45_control.md R272). -/
def State.csrCtx (s : State) : Word32 := BitVec.ofNat 16 s.nctx ++ BitVec.ofNat 16 s.liveContexts

/-- CSR 0x06 GEOM (45_control.md R272). -/
def State.csrGeom (s : State) : Word32 := BitVec.ofNat 16 s.params.headroom ++ BitVec.ofNat 16 s.cap

/-- CSR 0x07 LIMITS (45_control.md R272). -/
def State.csrLimits (s : State) : Word32 := BitVec.ofNat 16 s.params.txmemCap ++ BitVec.ofNat 16 s.params.maxMsgLen

/-- `CsrValue(n)`, none for the unmapped numbers above 0x07 (45_control.md R272; 10_state.md R24 to R28). -/
def State.csrValue (s : State) (n : Byte) : Option Word32 :=
  match n.toNat with
  | 0 => some s.csrCfg
  | 1 => some s.csrGate
  | 2 => some s.csrTxStat
  | 3 => some s.csrFault
  | 4 => some s.csrArena
  | 5 => some s.csrCtx
  | 6 => some s.csrGeom
  | 7 => some s.csrLimits
  | _ => none

end Sys2Proof.Machine
end

