-- ==== Sys2Proof/Machine/Control.lean ====
section
/-! DEFINITION. The control commands (45_control.md R270 to R276). -/

namespace Sys2Proof.Machine

/-- `NOP` (45_control.md R270). -/
def execNop (s : State) : Result := whenRunning s (.next (s.respond .ok 0#32))

/-- `CSRR csr` (45_control.md R271): of a mapped CSR it executes while halted too (60_exceptions.md R292). -/
def execCsrr (csr : Byte) (s : State) : Result :=
  match s.csrValue csr with
  | some v => .next (s.respond .ok v)
  | none => whenRunning s (.next (s.raise Opcode.csrr.code .badCsr csr))

/-- The write of CFG: refused once bound (45_control.md R274). -/
def writeCfg (val : Word32) (s : State) : State :=
  if s.cfg.bound then s.respond .errAlreadyBound 0#32
  else
    ({ s with cfg :=
        { localEid := val.extractLsb' 0 8, bound := val.getLsbD 8, gatePolicy := GatePolicy.ofBit (val.getLsbD 9) } }
      : State).respond .ok 0#32

/-- The write of GATE (45_control.md R276). -/
def writeGate (val : Word32) (s : State) : State := ({ s with gate := val.getLsbD 0 } : State).respond .ok 0#32

/-- `CSRW csr, val`: CFG, GATE, the read-only CSRs, and the unmapped numbers (45_control.md R274 to R276). -/
def execCsrw (csr : Byte) (val : Word32) (s : State) : Result :=
  whenRunning s <|
    match csr.toNat with
    | 0 => .next (writeCfg val s)
    | 1 => .next (writeGate val s)
    | n => if n ≤ 7 then .next (s.respond .ok 0#32) else .next (s.raise Opcode.csrw.code .badCsr csr)

end Sys2Proof.Machine
end

