-- ==== Sys2Proof/Machine/Fragmentation.lean ====
section
/-! DEFINITION. The fragmentation engine: its arithmetic, its commands, and the TX engine's own step
(43_fragmentation.md R190 to R210). -/

namespace Sys2Proof.Machine

/-! ### Arithmetic of fragmentation -/

/-- `PktCount(len)`: an empty message is one packet (43_fragmentation.md R190). -/
def pktCount (len : Nat) : Nat := max 1 (ceilDiv len Config.mtu)

/-- `clen_i`, the payload bytes of packet i of a message of `len` bytes (43_fragmentation.md R191). -/
def chunkLen (len i : Nat) : Nat := min Config.mtu (len - i * Config.mtu)

/-- The control fields of packet i of n with tag `tag` (43_fragmentation.md R192). -/
def packetControl (i n : Nat) (tag : BitVec 3) : Control :=
  { som := i == 0, eom := i + 1 == n, seq := BitVec.ofNat 2 (i % 4), tagOwner := true, tag := tag }

/-- The header bytes of the current packet (43_fragmentation.md R192). -/
def State.packetHeader (s : State) : List Byte :=
  hdrEncode s.tx.dest s.cfg.localEid (packetControl s.tx.i s.tx.n s.tx.tag)

/-! ### The message's start and end -/

/-- `StartTx(d, t, tm, len)`: `Tx.code` keeps the last message's code (43_fragmentation.md R202). -/
def State.startTx (s : State) (d : Byte) (t : BitVec 3) (alloc : Bool) (len : Nat) : State :=
  { s with
    tx := { s.tx with
      phase := .next, dest := d, tag := t, tagAlloc := alloc, len := len, n := pktCount len, i := 0, cur := 0 } }

/-- The tag of the current message released, if this message allocated it. -/
def State.releaseMessageTag (s : State) : State := if s.tx.tagAlloc then s.releaseTag s.tx.dest s.tx.tag else s

/-- `Finish(code)`: a failure leaves no tag allocated, a success keeps it busy (43_fragmentation.md R207). -/
def State.finish (s : State) (code : Status) : State :=
  let t := if code = .ok then s else s.releaseMessageTag
  ({ t with tx := { t.tx with phase := .idle, code := code } } : State).emit (.txDone code)

/-! ### Commands -/

/-- `TXWR addr, byte` (43_fragmentation.md R200): the bounds fault comes before the busy status. -/
def execTxwr (addr : BitVec 16) (d : Byte) (s : State) : Result :=
  whenRunning s <|
    if s.params.txmemCap ≤ addr.toNat then .next (s.raise Opcode.txwr.code .outOfBounds 0x00#8)
    else if s.busy then .next (s.respond .errBusy 0#32)
    else match s.txMemWrite addr.toNat d with
      | none => .fault .txMemRequirement
      | some t => .next (t.respond .ok 0#32)

/-- `TXMSG dest, tag|auto, len` (43_fragmentation.md R201). -/
def execTxmsg (dest : Byte) (mode : TagMode) (len : BitVec 16) (s : State) : Result :=
  whenRunning s <|
    if s.busy then .next (s.respond .errBusy 0#32)
    else if !s.cfg.bound then .next (s.respond .errNoRoute 0#32)
    else if s.params.txmemCap < len.toNat then .next (s.respond .errLen 0#32)
    else match mode with
      | .explicit t => .next ((s.startTx dest t false len.toNat).respond .ok (t.setWidth 32))
      | .auto =>
        match s.allocTag dest with
        | none => .next (s.respond .errTagExhausted 0#32)
        | some t => .next (((s.takeTag dest t).startTx dest t true len.toNat).respond .ok (t.setWidth 32))

/-- `TAGFREE dest, tag` (43_fragmentation.md R208). -/
def execTagfree (dest : Byte) (tag : BitVec 3) (s : State) : Result :=
  whenRunning s (.next ((s.releaseTag dest tag).respond .ok 0#32))

/-- `TXACK st` (43_fragmentation.md R206). -/
def execTxack (st : Byte) (s : State) : Result :=
  whenRunning s <|
    if s.waitingAck then
      let t := s.setBuf s.tx.cur { s.buf s.tx.cur with alloc := false, owner := .cmd }
      if st = 0x00#8 then
        let u := { t with tx := { t.tx with i := t.tx.i + 1 } }
        if u.tx.i = u.tx.n then .next ((u.finish .ok).respond .ok 0#32)
        else .next (({ u with tx := { u.tx with phase := .next } } : State).respond .ok 0#32)
      else .next ((t.finish .errBinding).respond .ok 0#32)
    else .next (s.raise Opcode.txack.code .unexpectedAck 0x00#8)

/-! ### The TX engine's step -/

/-- When TXENG has a step (43_fragmentation.md R203). -/
def State.txEnabled (s : State) : Bool := !s.halted && decide (s.tx.phase = .next) && !s.held

/-- The packet built in free buffer h and handed to the binding (43_fragmentation.md R203). -/
def sendPacket (s : State) (h : Nat) : Result :=
  let clen := chunkLen s.tx.len s.tx.i
  match s.txMemReadN (s.tx.i * Config.mtu) clen with
  | none => .fault .txMemRequirement
  | some payload =>
    match (s.allocBuffer h .txeng clen).arenaWriteN h s.params.headroom (s.packetHeader ++ payload) with
    | none => .fault .arenaRequirement
    | some t =>
      match t.arenaReadN h s.params.headroom (Config.hdrLen + clen) with
      | none => .fault .arenaRequirement
      | some frame =>
        .next (({ t with tx := { t.tx with cur := h, phase := .waitAck } } : State).emit (.pktOut h frame))

/-- The TX engine's turn: its step where it has one, else nothing (43_fragmentation.md R203, R204; 00_scope.md R11 `hold`;
log 4). -/
def txEngineStep (s : State) : Result :=
  if s.txEnabled then
    if s.gate then
      match s.freeHandle with
      | none => .next (s.finish .errNoBuf)
      | some h => sendPacket s h
    else .next (s.finish .errTxDisabled)
  else .next s

end Sys2Proof.Machine
end

