-- ==== Sys2Proof/Machine/Reassembly.lean ====
section
/-! DEFINITION. The reassembly engine (44_reassembly.md R230 to R240). -/

namespace Sys2Proof.Machine

/-- `Drop(reason, src, tag)`: one LOG event and the reason as the status (44_reassembly.md R231, R239). -/
def dropPacket (s : State) (reason : Status) (src : Byte) (tag : BitVec 3) : State :=
  (s.emit (.log reason src tag)).respond reason 0#32

/-- `emit DELIVER(src, len, bytes)` and the status RX_DELIVERED with the length (44_reassembly.md R235). -/
def deliverMessage (s : State) (src : Byte) (bytes : List Byte) : State :=
  (s.emit (.deliver src bytes.length bytes)).respond .rxDelivered (BitVec.ofNat 32 bytes.length)

/-- `Accept(dest)` (44_reassembly.md R232). -/
def State.accepts (s : State) (dest : Byte) : Bool :=
  s.cfg.bound && (dest == s.cfg.localEid || s.params.acceptExtra.contains dest)

/-- Any prior context of the key destroyed (44_reassembly.md R233). -/
def State.destroyKey (s : State) (src : Byte) (tag : BitVec 3) : State :=
  match s.lookup src tag with
  | none => s
  | some k => s.destroyCtx k

/-- A packet with SOM = 1 that passed the filters (44_reassembly.md R233). -/
def reassembleFirst (s : State) (src : Byte) (ctl : Control) (pay : List Byte) : State :=
  let t := s.destroyKey src ctl.tag
  if ctl.eom then deliverMessage t src pay
  else match t.freeSlot with
    | none => dropPacket t .rxDropNoSlot src ctl.tag
    | some k =>
      (t.setCtx k
        { valid := true, src := src, tag := ctl.tag, exp := ctl.seq + 1#2, len := pay.length,
          acc := (t.ctx k).acc.writeN 0 pay }).respond .rxAccepted 0#32

/-- Context `c` with the payload appended and the expected SEQ advanced (44_reassembly.md R234). -/
def Context.appended (c : Context) (pay : List Byte) : Context :=
  { c with exp := c.exp + 1#2, len := c.len + pay.length, acc := c.acc.writeN c.len pay }

/-- A packet with SOM = 0 that passed the filters (44_reassembly.md R234). -/
def reassembleNext (s : State) (src : Byte) (ctl : Control) (pay : List Byte) : State :=
  match s.lookup src ctl.tag with
  | none => dropPacket s .rxDropNoCtx src ctl.tag
  | some k =>
    let c := s.ctx k
    if ctl.seq ≠ c.exp then dropPacket (s.destroyCtx k) .rxDropSeq src ctl.tag
    else if s.params.maxMsgLen < c.len + pay.length then dropPacket (s.destroyCtx k) .rxDropOverflow src ctl.tag
    else
      let d := c.appended pay
      if ctl.eom then deliverMessage (s.setCtx k { d with valid := false }) src (d.acc.readN 0 d.len)
      else (s.setCtx k d).respond .rxAccepted 0#32

/-- `Reassemble(...)`: the acceptance filters in their order, then the SOM or the other path (44_reassembly.md R231). -/
def reassemble (s : State) (hd : Header) (pay : List Byte) : State :=
  if !hd.ok then dropPacket s .rxDropVersion hd.src hd.ctl.tag
  else if !s.accepts hd.dest then dropPacket s .rxDropRoute hd.src hd.ctl.tag
  else if Config.mtu < pay.length then dropPacket s .rxDropLength hd.src hd.ctl.tag
  else if hd.ctl.som then reassembleFirst s hd.src hd.ctl pay
  else reassembleNext s hd.src hd.ctl pay

/-- `RXPKT h` (44_reassembly.md R230): the packet buffer is consumed in every outcome. -/
def execRxpkt (h : Byte) (s : State) : Result :=
  withOwnHandle s .rxpkt h fun b =>
    match s.arenaReadN h.toNat b.hdr Config.hdrLen,
          s.arenaReadN h.toNat (b.hdr + Config.hdrLen) b.payloadLen with
    | some hb, some pay =>
      .next (reassemble (s.setBuf h.toNat { b with alloc := false }) (hdrDecodeBytes hb) pay)
    | _, _ => .fault .arenaRequirement

/-- `CTXFLUSH src, tag` and `CTXFLUSH all` (44_reassembly.md R238). -/
def execCtxflush (sel : FlushSel) (s : State) : Result :=
  whenRunning s <|
    match sel with
    | .all =>
      .next (({ s with ctxs := s.ctxs.map (fun c => { c with valid := false }) } : State).respond .ok
        (BitVec.ofNat 32 s.liveContexts))
    | .key src tag =>
      match s.lookup src tag with
      | none => .next (s.respond .ok 0#32)
      | some k => .next ((s.destroyCtx k).respond .ok 1#32)

end Sys2Proof.Machine
end

