-- ==== Sys2Proof/Machine/Dispatch.lean ====
section
/-! DEFINITION. One arm per command: the direct call of its meaning. -/

namespace Sys2Proof.Machine

def exec (i : Instr) (s : State) : Host.Outcome State Fault Refusal :=
  match i with
  | .nop => Sys2Proof.Machine.execNop s
  | .alloc len => Sys2Proof.Machine.execAlloc len s
  | .free h => Sys2Proof.Machine.execFree h s
  | .hdrv h => Sys2Proof.Machine.execHdrv h s
  | .payv h => Sys2Proof.Machine.execPayv h s
  | .size h => Sys2Proof.Machine.execSize h s
  | .winv h => Sys2Proof.Machine.execWinv h s
  | .growf h n => Sys2Proof.Machine.execGrowf h n s
  | .growb h n => Sys2Proof.Machine.execGrowb h n s
  | .append h data => Sys2Proof.Machine.execAppend h data s
  | .rd8 h rg idx => Sys2Proof.Machine.execRd8 h rg idx s
  | .wr8 h rg idx d => Sys2Proof.Machine.execWr8 h rg idx d s
  | .henc dest src ctl => Sys2Proof.Machine.execHenc dest src ctl s
  | .hdec hdr32 => Sys2Proof.Machine.execHdec hdr32 s
  | .txwr addr d => Sys2Proof.Machine.execTxwr addr d s
  | .txmsg dest mode len => Sys2Proof.Machine.execTxmsg dest mode len s
  | .tagfree dest tag => Sys2Proof.Machine.execTagfree dest tag s
  | .txack st => Sys2Proof.Machine.execTxack st s
  | .rxpkt h => Sys2Proof.Machine.execRxpkt h s
  | .ctxflush sel => Sys2Proof.Machine.execCtxflush sel s
  | .csrr csr => Sys2Proof.Machine.execCsrr csr s
  | .csrw csr val => Sys2Proof.Machine.execCsrw csr val s

end Sys2Proof.Machine
end

