-- ==== Sys2Proof/Machine/Port.lean ====
section
/-! DEFINITION. The command port: a transaction decoded and executed, or its decode fault taken
(30_encoding.md R90, R105, R107; 60_exceptions.md R290 to R293). -/

namespace Sys2Proof.Machine

/-- A decode fault of a transaction whose command word is `w`, INFO 0; FAULTED while halted (60_exceptions.md R290,
R292, R293 items 1 to 3). -/
def decodeFault (cause : Cause) (w : Word64) (s : State) : Result :=
  whenRunning s (.next (s.raise (opField w) cause 0x00#8))

/-- One transaction of the command port. -/
def runTransaction (words : List Word64) (s : State) : Result :=
  match decode words with
  | .ok i => exec i s
  | .error .illegalOpcode => decodeFault .illegalOpcode (words.headD 0#64) s
  | .error .reservedField => decodeFault .reservedField (words.headD 0#64) s
  | .error .notATransaction => .refused .notATransaction

/-- The state in which the head of `inputs` is taken: it is off the list, and no response has been given in this step
(10_state.md R23; log 4, log 5). -/
def State.begin (s : State) (rest : List Input) : State := { s with inputs := rest, response := none }

/-- A transaction put where the next step takes it (log 7). -/
def State.offer (s : State) (words : List Word64) : State := { s with inputs := .command words :: s.inputs }

end Sys2Proof.Machine
end

