-- ==== Sys2Proof/Machine/Step.lean ====
section
/-! DEFINITION. One step of the machine: the agent whose turn is next takes its step (10_state.md R20;
20_memory.md R72, R73). -/

namespace Sys2Proof.Machine

/-- One step. With no input left no agent steps and nothing changes but that no response was given
(70_reset_and_hazards.md R323; log 4). -/
def step (s : State) : Host.Outcome State Fault Refusal :=
  match s.inputs with
  | [] => .next (s.begin [])
  | .command words :: rest => runTransaction words (s.begin rest)
  | .txEngine :: rest => txEngineStep (s.begin rest)
  | .reset :: rest => .next (resetStep (s.begin rest))

/-- `s` with the instruction whose bits are `w` offered at the command port, so that the next step runs it (log 7). -/
def State.withFetchWord (s : State) (nbits w : Nat) : State := s.offer (tableTransaction nbits w)

end Sys2Proof.Machine
end

