-- ==== Sys2Proof/Safety.lean ====
section
/-! DEFINITION. What counts as a good state and a safe run, and the words the statements use. None mentions a free
value, and each but `rxRun`, which speaks of runs, is decidable. -/

namespace Sys2Proof.Machine

/-! ### The invariant -/

/-- A store in canonical form whose written addresses all exist (20_memory.md R60; log 3). -/
abbrev Memory.within (m : Memory) (size : Nat) : Prop := m.wf ∧ ∀ c ∈ m.cells, c.1 < size

/-- The invariant of an allocated buffer (10_state.md R31). -/
abbrev Buffer.windowOk (p : Config.Params) (b : Buffer) : Prop :=
  b.alloc = true →
    b.start ≤ b.hdr ∧ b.hdr = p.headroom ∧ b.hdr + Config.hdrLen ≤ b.endOff ∧ b.endOff ≤ p.cap

/-- The arena: NBUF buffers, each allocated one with its window in order, every written byte inside CAP. -/
abbrev State.arenaInv (s : State) : Prop :=
  s.bufs.length = s.params.nbuf ∧ ∀ b ∈ s.bufs, b.windowOk s.params ∧ b.data.within s.params.cap

/-- Two context slots do not hold the same live key (10_state.md R34). -/
abbrev Context.apart (c d : Context) : Prop :=
  c.valid = true → d.valid = true → ¬(c.src = d.src ∧ c.tag = d.tag)

/-- The contexts: NCTX slots, lengths and written bytes inside MAX_MSG_LEN (10_state.md R33), at most one live context for
each key (R34). -/
abbrev State.contextInv (s : State) : Prop :=
  s.ctxs.length = s.params.nctx ∧
  (∀ c ∈ s.ctxs, c.len ≤ s.params.maxMsgLen ∧ c.acc.within s.params.maxMsgLen) ∧
  s.ctxs.Pairwise (fun c d => c.apart d)

/-- The tag table in its canonical form: strictly rising entries of 256 × 8 (20_memory.md R60; log 14). -/
abbrev State.tagInv (s : State) : Prop := s.busyTags.Pairwise (· < ·) ∧ ∀ k ∈ s.busyTags, k < 256 * Config.ntag

/-- The TX engine (10_state.md R37), with the widths of its fields (R36): an active message has its packet count and a
packet index below it; the packet awaiting acknowledgement is in an allocated buffer that TXENG owns; no other buffer
is owned by TXENG. -/
abbrev State.txInv (s : State) : Prop :=
  s.tx.i ≤ s.tx.n ∧ s.tx.n ≤ 65535 ∧ s.tx.len ≤ s.params.txmemCap ∧ s.tx.cur < s.nbuf ∧
  (s.tx.phase ≠ .idle → s.tx.n = pktCount s.tx.len ∧ s.tx.i < s.tx.n) ∧
  (s.tx.phase = .waitAck → (s.buf s.tx.cur).alloc = true ∧ (s.buf s.tx.cur).owner = .txeng) ∧
  (∀ h < s.nbuf, (s.buf h).owner = .txeng → s.tx.phase = .waitAck ∧ h = s.tx.cur)

/-- A fault is recorded exactly when the record names a cause (10_state.md R27; 60_exceptions.md R290). -/
abbrev State.faultInv (s : State) : Prop := s.fault.valid = true ↔ s.fault.cause ≠ .noFault

/-- The invariant of the machine. -/
abbrev State.Inv (s : State) : Prop :=
  s.params.legal ∧ s.arenaInv ∧ s.contextInv ∧ s.tagInv ∧ s.txMem.within s.params.txmemCap ∧ s.txInv ∧ s.faultInv

/-- The draws of all stores are different and past, so that the bytes of one store say nothing about another's
(20_memory.md R63; log 2). -/
abbrev State.drawsFresh (s : State) : Prop :=
  (s.bufs.map (fun b => b.data.draw) ++ s.ctxs.map (fun c => c.acc.draw) ++ [s.txMem.draw]).Nodup ∧
  ∀ d ∈ s.bufs.map (fun b => b.data.draw) ++ s.ctxs.map (fun c => c.acc.draw) ++ [s.txMem.draw], d < s.draws

/-! ### A safe run -/

/-- A step that goes on: it stops with no fault, and it is refused only for a word sequence that is no transaction. -/
abbrev stepSafe (r : Result) : Prop :=
  match r with
  | .next _ => True
  | .fault _ => False
  | .refused r => r = .notATransaction

/-! ### Words of the statements -/

/-- Handle h names an allocated buffer (the checks of 41_arena.md R130 pass). -/
abbrev State.live (s : State) (h : Byte) : Prop := h.toNat < s.nbuf ∧ (s.buf h.toNat).alloc = true

/-- CheckHandle turns command `i`, which names handle `h`, away with its two faults and no other effect
(41_arena.md R130; 60_exceptions.md R291). -/
abbrev checksHandle (i : Instr) (h : Byte) (s : State) : Prop :=
  (s.nbuf ≤ h.toNat →
    exec i s = .next { s with fault := ⟨true, .badHandle, i.opcode.code, h⟩, response := some ⟨.fault, 0⟩ }) ∧
  (h.toNat < s.nbuf → (s.buf h.toNat).alloc = false →
    exec i s = .next { s with fault := ⟨true, .notAllocated, i.opcode.code, h⟩, response := some ⟨.fault, 0⟩ })

/-- The region `rg` of buffer `b` is the `len` bytes from offset `base` (10_state.md R32). -/
abbrev Buffer.regionIs (b : Buffer) (rg : Region) (base len : Nat) : Prop :=
  (rg = .hdr ∧ base = b.hdr ∧ len = 4) ∨
  (rg = .payload ∧ base = b.hdr + 4 ∧ len = b.endOff - b.hdr - 4) ∨
  (rg = .window ∧ base = b.start ∧ len = b.endOff - b.start)

/-- The status errors: the codes a command answers when its rule turns it away without a fault
(30_encoding.md R104; 60_exceptions.md R295). -/
def Status.isError : Status → Bool
  | .errLen | .errNoBuf | .errUnderflow | .errFull | .errBusy | .errTagExhausted | .errNoRoute | .errTxDisabled
  | .errBinding | .errBadVersion | .errAlreadyBound => true
  | .ok | .rxAccepted | .rxDelivered | .rxDropVersion | .rxDropRoute | .rxDropLength | .rxDropNoCtx | .rxDropSeq
  | .rxDropOverflow | .rxDropNoSlot | .fault | .faulted => false

/-- The statuses of a dropped packet (30_encoding.md R104; 44_reassembly.md R239). -/
def Status.isDrop : Status → Bool
  | .rxDropVersion | .rxDropRoute | .rxDropLength | .rxDropNoCtx | .rxDropSeq | .rxDropOverflow
  | .rxDropNoSlot => true
  | .ok | .errLen | .errNoBuf | .errUnderflow | .errFull | .errBusy | .errTagExhausted | .errNoRoute
  | .errTxDisabled | .errBinding | .errBadVersion | .errAlreadyBound | .rxAccepted | .rxDelivered | .fault
  | .faulted => false

/-- The handle operand of the commands that name one (60_exceptions.md R290, BAD_HANDLE's list). -/
def commandHandle : Instr → Option Byte
  | .free h | .hdrv h | .payv h | .size h | .winv h | .growf h _ | .growb h _ | .append h _ | .rd8 h _ _
  | .wr8 h _ _ _ | .rxpkt h => some h
  | .nop | .alloc _ | .henc _ _ _ | .hdec _ | .txwr _ _ | .txmsg _ _ _ | .tagfree _ _ | .txack _ | .ctxflush _
  | .csrr _ | .csrw _ _ => none

/-- The commands that only read (20_memory.md R69; NOP of 45_control.md R270 too). -/
def readsOnly : Instr → Bool
  | .nop | .hdrv _ | .payv _ | .size _ | .winv _ | .rd8 _ _ _ | .henc _ _ _ | .hdec _ | .csrr _ => true
  | .alloc _ | .free _ | .growf _ _ | .growb _ _ | .append _ _ | .wr8 _ _ _ _ | .txwr _ _ | .txmsg _ _ _
  | .tagfree _ _ | .txack _ | .rxpkt _ | .ctxflush _ | .csrw _ _ => false

/-- The header bytes of the packet in buffer h, decoded (44_reassembly.md R230). -/
def State.rxHeader (s : State) (h : Byte) : Header :=
  hdrDecodeBytes ((s.buf h.toNat).data.readN (s.buf h.toNat).hdr Config.hdrLen)

/-- The payload bytes of the packet in buffer h (44_reassembly.md R230). -/
def State.rxPayload (s : State) (h : Byte) : List Byte :=
  (s.buf h.toNat).data.readN ((s.buf h.toNat).hdr + Config.hdrLen) (s.buf h.toNat).payloadLen

/-- The buffer of handle h consumed (44_reassembly.md R230). -/
def State.consumed (s : State) (h : Byte) : State :=
  { s with bufs := s.bufs.set h.toNat { s.buf h.toNat with alloc := false } }

/-- A packet buffer that RXPKT accepts: the engine runs, the handle is live, the buffer is not the TX engine's, and its
window is in order (10_state.md R31, 44_reassembly.md R230). -/
abbrev State.rxReady (s : State) (h : Byte) : Prop :=
  s.halted = false ∧ s.live h ∧ (s.buf h.toNat).owner = .cmd ∧ (s.buf h.toNat).windowOk s.params

/-- A packet in a ready buffer that passes the acceptance filters (44_reassembly.md R231, R232). -/
abbrev State.rxPasses (s : State) (h : Byte) : Prop :=
  s.rxReady h ∧ (s.rxHeader h).ok = true ∧ s.accepts (s.rxHeader h).dest = true ∧ (s.rxPayload h).length ≤ Config.mtu

/-- Slot k holds the live context of the key (10_state.md R34). -/
abbrev State.holds (s : State) (k : Nat) (src : Byte) (tag : BitVec 3) : Prop :=
  k < s.nctx ∧ (s.ctx k).valid = true ∧ (s.ctx k).src = src ∧ (s.ctx k).tag = tag

/-- No live context has the key. -/
abbrev State.noContext (s : State) (src : Byte) (tag : BitVec 3) : Prop := ∀ k < s.nctx, ¬s.holds k src tag

/-- The packets of message `m`: for each chunk its header and its bytes (43_fragmentation.md R190 to R192, R209). -/
def packetsOf (dest src : Byte) (tag : BitVec 3) (m : List Byte) : List (List Byte) :=
  (List.range (pktCount m.length)).map fun i =>
    hdrEncode dest src (packetControl i (pktCount m.length) tag) ++ (m.drop (i * Config.mtu)).take Config.mtu

/-- The reassembly function given one packet after another, each as its header bytes and its payload
(44_reassembly.md R230, R231). It runs no command: `rxRun` does. -/
def receiveAll (s : State) (packets : List (List Byte)) : State :=
  packets.foldl (fun t f => reassemble t (hdrDecodeBytes (f.take Config.hdrLen)) (f.drop Config.hdrLen)) s

/-- The bytes of the packet in buffer h, from its header to the end of its window (44_reassembly.md R230). -/
def State.rxBytes (s : State) (h : Byte) : List Byte :=
  (s.buf h.toNat).data.readN (s.buf h.toNat).hdr ((s.buf h.toNat).endOff - (s.buf h.toNat).hdr)

/-- What happened from `s` to `u` changed nothing that reassembly depends on, and emitted no event: only buffers, the
transmit side, the gate and the model's own fields may differ. -/
abbrev State.sameReceiver (s u : State) : Prop :=
  u.params = s.params ∧ u.cfg = s.cfg ∧ u.ctxs = s.ctxs ∧ u.events = s.events

/-- A run of RXPKT commands from `s` to `t`, one for each of `packets`, in order: before each, some ready buffer has come to
hold the packet (44_reassembly.md R230, R240). -/
def rxRun : List (List Byte) → State → State → Prop
  | [], s, t => t = s
  | f :: fs, s, t =>
    ∃ (u v : State) (h : Byte),
      s.sameReceiver u ∧ u.rxReady h ∧ u.rxBytes h = f ∧ exec (.rxpkt h) u = .next v ∧ rxRun fs v t

/-- `n` steps, up to the first that does not answer a next state. -/
def runSteps : Nat → State → Result
  | 0, s => .next s
  | n + 1, s =>
    match step s with
    | .next t => runSteps n t
    | .fault r => .fault r
    | .refused r => .refused r

/-- The turns in which `n` packets are sent and each acknowledged with success before the next: the TX engine, then
`TXACK 0` (43_fragmentation.md R203, R206). -/
def sendTurns (n : Nat) : List Input :=
  (List.replicate n [Input.txEngine, Input.command [0x2300000000000000#64]]).flatten

/-- The bytes of the message being sent, as they lie in TxMem (43_fragmentation.md R191). -/
def State.txMessage (s : State) : List Byte := s.txMem.readN 0 s.tx.len

/-- Buffer h is free, and every buffer below it is allocated (41_arena.md R131; 43_fragmentation.md R203). -/
abbrev State.lowestFree (s : State) (h : Nat) : Prop :=
  h < s.nbuf ∧ (s.buf h).alloc = false ∧ ∀ h' < h, (s.buf h').alloc = true

end Sys2Proof.Machine
end

