-- ==== Sys2Proof/Certificates/Slice0/Obligations.lean ====
section
/-! DEFINITION. The statements for the provers. Each is about the machine, for every state of every engine (every choice of
the parameters of 00_scope.md R7) unless it says otherwise, and for every value of the free bytes. -/

open Sys2Proof Sys2Proof.Machine

/-! ### The encoding -/

/-- 30_encoding.md R91 to R102: decoding the words of a well-formed command gives the command, with every operand at every
value its field admits (that RG = 3 and CSR numbers above 0x07 are operands of a command is log 11's reading; that the
unused bytes of APPEND's last beat are written 0 is log 15's choice). -/
def Obligations.DecodeOfEncodeIsTheCommand : Prop :=
  ∀ i : Instr, i.wf → decode (encode i) = .ok i

/-- 30_encoding.md R90, R91, R102, R107: a word that decodes is the word of the command it decodes to, with that command's
number of beats; and the data of a decoded APPEND are the used bytes of its beats, byte j at bits
[63 - 8 (j mod 8) : 56 - 8 (j mod 8)] of beat j / 8, whatever the bytes past them hold. So two transactions that decode to
one command differ in those ignored bytes alone. -/
def Obligations.DecodedWordIsTheEncodedWord : Prop :=
  ∀ (w : Word64) (beats : List Word64) (i : Instr),
    decode (w :: beats) = .ok i →
      i.word = w ∧ i.wf ∧ beats.length = i.beats.length ∧
      ∀ (h : Byte) (data : List Byte), i = .append h data →
        ∀ j (hj : j < data.length), data[j] = (beats.getD (j / 8) 0#64).extractLsb' (56 - 8 * (j % 8)) 8

/-- 30_encoding.md R91, R105, R107; 60_exceptions.md R290: with the right number of beats, a word outside the opcode map is
an illegal opcode, a word with a reserved bit set (unconditional, or TAG with TM = 1, or SRC or TAG with ALL = 1) is a
reserved field, and every other word decodes to a command of its opcode. That the decoder leaves RG = 3 and CSR numbers
above 0x07, which R105 lists too, to the command's own fault is the model's reading (log 11). -/
def Obligations.EveryWordDecodesOrIsNamed : Prop :=
  ∀ (w : Word64) (beats : List Word64), beats.length = beatCount w →
    ((∀ o : Opcode, o.code ≠ opField w) → decode (w :: beats) = .error .illegalOpcode) ∧
    ∀ o : Opcode, o.code = opField w →
      ((w &&& o.reservedMask ≠ 0#64 ∨
          (o = .txmsg ∧ field w 47 1 = 1#1 ∧ field w 40 3 ≠ 0#3) ∨
          (o = .ctxflush ∧ field w 47 1 = 1#1 ∧ (field w 48 8 ≠ 0#8 ∨ field w 40 3 ≠ 0#3))) →
        decode (w :: beats) = .error .reservedField) ∧
      ((w &&& o.reservedMask = 0#64 ∧
          ¬(o = .txmsg ∧ field w 47 1 = 1#1 ∧ field w 40 3 ≠ 0#3) ∧
          ¬(o = .ctxflush ∧ field w 47 1 = 1#1 ∧ (field w 48 8 ≠ 0#8 ∨ field w 40 3 ≠ 0#3))) →
        ∃ i : Instr, decode (w :: beats) = .ok i ∧ i.opcode = o)

/-- 30_encoding.md R91 to R103: the bits of every command word, from the most significant: the OP of the opcode map, then
the fields of its format, each reserved bit 0, with every operand at every value; and APPEND's data beats (R102), byte j
at bits [63 - 8 (j mod 8) : 56 - 8 (j mod 8)] of beat j / 8. -/
def Obligations.EncodedWordsHaveTheirFormats : Prop :=
  Instr.nop.word = 0x00#8 ++ 0#56 ∧
  (∀ len : BitVec 16, (Instr.alloc len).word = 0x01#8 ++ 0#40 ++ len) ∧
  (∀ h : Byte,
    (Instr.free h).word = 0x02#8 ++ h ++ 0#48 ∧ (Instr.hdrv h).word = 0x03#8 ++ h ++ 0#48 ∧
    (Instr.payv h).word = 0x04#8 ++ h ++ 0#48 ∧ (Instr.size h).word = 0x05#8 ++ h ++ 0#48 ∧
    (Instr.winv h).word = 0x06#8 ++ h ++ 0#48 ∧ (Instr.rxpkt h).word = 0x30#8 ++ h ++ 0#48) ∧
  (∀ (h : Byte) (n : BitVec 16),
    (Instr.growf h n).word = 0x07#8 ++ h ++ 0#32 ++ n ∧ (Instr.growb h n).word = 0x08#8 ++ h ++ 0#32 ++ n) ∧
  (∀ (h : Byte) (data : List Byte), data.length < 65536 →
    (Instr.append h data).word = 0x09#8 ++ h ++ 0#32 ++ BitVec.ofNat 16 data.length ∧
    (Instr.append h data).beats.length = (data.length + 7) / 8 ∧
    ∀ j (hj : j < data.length),
      ((Instr.append h data).beats.getD (j / 8) 0#64).extractLsb' (56 - 8 * (j % 8)) 8 = data[j]) ∧
  (∀ (h : Byte) (idx : BitVec 16) (d : Byte) (rg : Region) (code : BitVec 2),
    (rg = .hdr ∧ code = 0#2) ∨ (rg = .payload ∧ code = 1#2) ∨ (rg = .window ∧ code = 2#2) ∨
        (rg = .reserved ∧ code = 3#2) →
    (Instr.rd8 h rg idx).word = 0x0A#8 ++ h ++ code ++ 0#30 ++ idx ∧
    (Instr.wr8 h rg idx d).word = 0x0B#8 ++ h ++ code ++ 0#6 ++ d ++ 0#16 ++ idx) ∧
  (∀ (dest src : Byte) (c : Control),
    (Instr.henc dest src c).word =
      0x10#8 ++ dest ++ src ++ BitVec.ofBool c.som ++ BitVec.ofBool c.eom ++ c.seq ++ BitVec.ofBool c.tagOwner ++
        c.tag ++ 0#32) ∧
  (∀ hdr32 : Word32, (Instr.hdec hdr32).word = 0x11#8 ++ 0#24 ++ hdr32) ∧
  (∀ (addr : BitVec 16) (d : Byte), (Instr.txwr addr d).word = 0x20#8 ++ 0#16 ++ d ++ 0#16 ++ addr) ∧
  (∀ (dest : Byte) (tag : BitVec 3) (len : BitVec 16),
    (Instr.txmsg dest (.explicit tag) len).word = 0x21#8 ++ dest ++ 0#1 ++ 0#4 ++ tag ++ 0#24 ++ len ∧
    (Instr.txmsg dest .auto len).word = 0x21#8 ++ dest ++ 1#1 ++ 0#4 ++ 0#3 ++ 0#24 ++ len ∧
    (Instr.tagfree dest tag).word = 0x22#8 ++ dest ++ 0#5 ++ tag ++ 0#40) ∧
  (∀ st : Byte, (Instr.txack st).word = 0x23#8 ++ 0#48 ++ st) ∧
  (∀ (src : Byte) (tag : BitVec 3), (Instr.ctxflush (.key src tag)).word = 0x31#8 ++ src ++ 0#1 ++ 0#4 ++ tag ++ 0#40) ∧
  (Instr.ctxflush .all).word = 0x31#8 ++ 0#8 ++ 1#1 ++ 0#47 ∧
  ∀ (csr : Byte) (val : Word32),
    (Instr.csrr csr).word = 0x40#8 ++ csr ++ 0#48 ∧ (Instr.csrw csr val).word = 0x41#8 ++ csr ++ 0#16 ++ val

/-- Words of 95_test_vectors.md, one of each family, decode to the commands they stand for. -/
def Obligations.SampleWordsDecode : Prop :=
  decode [0x0A00400000000001#64] = .ok (.rd8 0x00#8 .payload 1#16) ∧
  decode [0x0900000000000002#64, 0xAABB000000000000#64] = .ok (.append 0x00#8 [0xAA#8, 0xBB#8]) ∧
  decode [0x100908C800000000#64] = .ok (.henc 0x09#8 0x08#8 ⟨true, true, 0#2, true, 0#3⟩) ∧
  decode [0x21098000000001F4#64] = .ok (.txmsg 0x09#8 .auto 500#16) ∧
  decode [0x3109030000000000#64] = .ok (.ctxflush (.key 0x09#8 3#3)) ∧
  decode [0x4100000000000108#64] = .ok (.csrw 0x00#8 0x108#32)

/-- 42_codec.md R170: the places of the control byte's fields, both ways. -/
def Obligations.ControlByteHasItsLayout : Prop :=
  (∀ c : Control,
    (ctlEncode c).getLsbD 7 = c.som ∧ (ctlEncode c).getLsbD 6 = c.eom ∧ (ctlEncode c).extractLsb' 4 2 = c.seq ∧
    (ctlEncode c).getLsbD 3 = c.tagOwner ∧ (ctlEncode c).extractLsb' 0 3 = c.tag) ∧
  (∀ b : Byte,
    (ctlDecode b).som = b.getLsbD 7 ∧ (ctlDecode b).eom = b.getLsbD 6 ∧ (ctlDecode b).seq = b.extractLsb' 4 2 ∧
    (ctlDecode b).tagOwner = b.getLsbD 3 ∧ (ctlDecode b).tag = b.extractLsb' 0 3)

/-- 42_codec.md R174: the round trip law, of the control byte both ways and of the header. -/
def Obligations.HeaderRoundTrips : Prop :=
  (∀ c : Control, ctlDecode (ctlEncode c) = c) ∧ (∀ b : Byte, ctlEncode (ctlDecode b) = b) ∧
  ∀ (dest src : Byte) (c : Control),
    hdrDecodeBytes (hdrEncode dest src c) = { ok := true, ver := 0x01#8, dest := dest, src := src, ctl := c }

/-! ### The step, reset and the invariant -/

/-- 30_encoding.md R90, 20_memory.md R68: when the transaction at the command port decodes to command i, the step is i at
that state; all that the step adds is that the transaction is off the list and that no earlier response stands. -/
def Obligations.StepRunsTheDecodedCommand : Prop :=
  ∀ (s : State) (words : List Word64) (rest : List Input) (i : Instr),
    s.inputs = .command words :: rest → decode words = .ok i →
    step s = exec i { s with inputs := rest, response := none }

/-- 30_encoding.md R105; 60_exceptions.md R290 to R293: a transaction with an illegal opcode or a reserved bit set is the
recorded fault of that cause with INFO 0 and no other effect, and while the engine is halted it is answered FAULTED. -/
def Obligations.UndecodableWordsFault : Prop :=
  ∀ (s : State) (w : Word64) (beats : List Word64) (rest : List Input) (e : DecodeError) (c : Cause),
    s.inputs = .command (w :: beats) :: rest → decode (w :: beats) = .error e →
    (e = .illegalOpcode ∧ c = .illegalOpcode) ∨ (e = .reservedField ∧ c = .reservedField) →
    (s.halted = false →
      step s = .next { s with inputs := rest, fault := ⟨true, c, opField w, 0x00#8⟩, response := some ⟨.fault, 0⟩ }) ∧
    (s.halted = true → step s = .next { s with inputs := rest, response := some ⟨.faulted, 0⟩ })

/-- The invariant holds right after reset, of every engine whose parameters are legal, whatever draw it begins with; and
so of `State.reset`. -/
def Obligations.ResetMeetsTheInvariant : Prop :=
  (∀ (p : Config.Params) (draw : Nat), p.legal → (State.afterReset p draw).Inv) ∧ State.reset.Inv

/-- 10_state.md R31, R33, R34, R37 as one inductive invariant, over every state that meets it and every step: window order,
capacity bounds, one live context per key, the TX engine's phase and ownership, canonical stores. -/
def Obligations.StepKeepsTheInvariant : Prop :=
  ∀ s t : State, s.Inv → step s = .next t → t.Inv

/-- 20_memory.md R61 ("A primitive is never called with its requirements false"): from a state that meets the invariant no
step stops with a fault of the model, and none is refused but a word sequence that is no transaction. -/
def Obligations.InvariantStepsNeverStop : Prop :=
  ∀ s : State, s.Inv → stepSafe (step s)

/-- 20_memory.md R63: the draws of the stores are different and past right after reset, and every step keeps them so. A step
that allocates a buffer draws its bytes anew, and the reset step every store's; every other step keeps the draw of every
allocated buffer, of every accumulator and of TxMem, so that an unwritten byte stays what it was. That a draw is a number
is the model's choice (log 2). -/
def Obligations.StepKeepsDrawsFresh : Prop :=
  (∀ (p : Config.Params) (draw : Nat), (State.afterReset p draw).drawsFresh) ∧
  (∀ s t : State, s.drawsFresh → step s = .next t → t.drawsFresh) ∧
  (∀ s t : State, (∀ rest, s.inputs ≠ .reset :: rest) → step s = .next t →
    (∀ h, (s.buf h).alloc = false → (t.buf h).alloc = true → s.draws ≤ (t.buf h).data.draw) ∧
    (∀ h, (s.buf h).alloc = true → (t.buf h).data.draw = (s.buf h).data.draw) ∧
    (∀ k, (t.ctx k).acc.draw = (s.ctx k).acc.draw) ∧ t.txMem.draw = s.txMem.draw) ∧
  ∀ (s : State) (rest : List Input), s.inputs = .reset :: rest →
    ∃ t : State, step s = .next t ∧
      (∀ h < t.nbuf, s.draws ≤ (t.buf h).data.draw) ∧ (∀ k < t.nctx, s.draws ≤ (t.ctx k).acc.draw) ∧
      s.draws ≤ t.txMem.draw

/-- 70_reset_and_hazards.md R320 (with the values of 10_state.md R40): the reset step is enabled in every state and writes
every element; every store is drawn anew (the form of a draw is log 2's); the event RESET is emitted and no response is
given. -/
def Obligations.ResetWritesEveryElement : Prop :=
  ∀ (s : State) (rest : List Input), s.inputs = .reset :: rest →
    ∃ t : State, step s = .next t ∧
      t.params = s.params ∧ t.inputs = rest ∧ t.response = none ∧ t.events = s.events ++ [.reset] ∧
      t.cfg = { localEid := 0x00#8, bound := false, gatePolicy := .fail } ∧ t.gate = true ∧
      t.fault = { valid := false, cause := .noFault, opcode := 0x00#8, info := 0x00#8 } ∧
      t.nbuf = s.params.nbuf ∧
      (∀ h < t.nbuf, (t.buf h).alloc = false ∧ (t.buf h).owner = .cmd ∧ (t.buf h).start = s.params.headroom ∧
        (t.buf h).hdr = s.params.headroom ∧ (t.buf h).endOff = s.params.headroom + 4 ∧
        (t.buf h).data.cells = [] ∧ s.draws ≤ (t.buf h).data.draw) ∧
      t.nctx = s.params.nctx ∧
      (∀ k < t.nctx, (t.ctx k).valid = false ∧ (t.ctx k).src = 0x00#8 ∧ (t.ctx k).tag = 0#3 ∧ (t.ctx k).exp = 0#2 ∧
        (t.ctx k).len = 0 ∧ (t.ctx k).acc.cells = [] ∧ s.draws ≤ (t.ctx k).acc.draw) ∧
      (∀ (d : Byte) (g : BitVec 3), t.tagBusy d g = false) ∧
      t.txMem.cells = [] ∧ s.draws ≤ t.txMem.draw ∧
      t.tx = { phase := .idle, dest := 0x00#8, tag := 0#3, tagAlloc := false, len := 0, n := 0, i := 0, cur := 0,
               code := .ok }

/-! ### Faults and whole-machine rules -/

/-- 41_arena.md R130: every command that names a handle, on a running engine, checks it first: BAD_HANDLE outside
0..NBUF-1, NOT_ALLOCATED of a free buffer, with INFO the handle. -/
def Obligations.HandleCommandsCheckTheHandle : Prop :=
  ∀ (i : Instr) (h : Byte) (s : State), commandHandle i = some h → s.halted = false → checksHandle i h s

/-- 60_exceptions.md R291: a command that faults records VALID, a cause, its own OP field and an INFO, answers (FAULT, 0),
and has no other effect at all. -/
def Obligations.FaultsHaveNoOtherEffect : Prop :=
  ∀ (i : Instr) (s t : State), s.halted = false → exec i s = .next t → t.halted = true →
    t = { s with fault := ⟨true, t.fault.cause, i.opcode.code, t.fault.info⟩, response := some ⟨.fault, 0⟩ } ∧
    t.fault.cause ≠ .noFault

/-- 60_exceptions.md R292: while the engine is halted a CSRR of a CSR up to 0x07 executes normally; every other command,
decodable or not, answers (FAULTED, 0) and changes nothing, so FAULT keeps the first fault's record; the TX engine has no
step; every step but reset leaves the engine halted, and reset ends the halt. -/
def Obligations.HaltedEngineExecutesOnlyCsrr : Prop :=
  ∀ s : State, s.halted = true →
    (∀ csr : Byte, csr.toNat ≤ 7 →
      ∃ v, s.csrValue csr = some v ∧ exec (.csrr csr) s = .next { s with response := some ⟨.ok, v⟩ }) ∧
    (∀ i : Instr, (∀ csr : Byte, i = .csrr csr → 7 < csr.toNat) →
      exec i s = .next { s with response := some ⟨.faulted, 0⟩ }) ∧
    (∀ (words : List Word64) (e : DecodeError), decode words = .error e → e ≠ .notATransaction →
      runTransaction words s = .next { s with response := some ⟨.faulted, 0⟩ }) ∧
    txEngineStep s = .next s ∧
    (∀ t : State, (∀ rest, s.inputs ≠ .reset :: rest) → step s = .next t → t.halted = true ∧ t.fault = s.fault) ∧
    ∀ (rest : List Input), s.inputs = .reset :: rest → ∃ t : State, step s = .next t ∧ t.halted = false

/-- 60_exceptions.md R295: a command that answers a status error changes nothing but its response: no FAULT field, no halt,
no state. -/
def Obligations.StatusErrorsChangeNothing : Prop :=
  ∀ (i : Instr) (s t : State) (st : Status) (data : Word32), exec i s = .next t → t.response = some ⟨st, data⟩ →
    st.isError = true → t = { s with response := some ⟨st, data⟩ }

/-- 20_memory.md R69: a command that only reads, where it does not fault, changes nothing but its response, and repeating
it gives the same response. -/
def Obligations.ReadsHaveNoSideEffect : Prop :=
  ∀ (i : Instr) (s t : State), readsOnly i = true → exec i s = .next t → t.fault = s.fault →
    t = { s with response := t.response } ∧ exec i t = .next t

/-- 10_state.md R39 ("No step removes an event"): every step only appends to the event history. -/
def Obligations.NoStepRemovesAnEvent : Prop :=
  ∀ s t : State, step s = .next t → ∃ es : List Event, t.events = s.events ++ es

/-- 43_fragmentation.md R204 ("no PKT_OUT event occurs while GATE.TX_ENABLED = 0"): a step from a state with the gate closed
emits no PKT_OUT. -/
def Obligations.NoPacketLeavesThroughAClosedGate : Prop :=
  ∀ s t : State, s.gate = false → step s = .next t →
    ∃ es : List Event, t.events = s.events ++ es ∧ ∀ h frame, Event.pktOut h frame ∉ es

/-- 45_control.md R274, R276; 70_reset_and_hazards.md R338: no command but CSRW writes CFG or GATE, and once BOUND = 1 every
step but reset leaves CFG as it is. -/
def Obligations.ConfigurationIsFrozenOnceBound : Prop :=
  (∀ (i : Instr) (s t : State), (∀ csr val, i ≠ .csrw csr val) → exec i s = .next t →
    t.cfg = s.cfg ∧ t.gate = s.gate) ∧
  ∀ s t : State, s.cfg.bound = true → (∀ rest, s.inputs ≠ .reset :: rest) → step s = .next t → t.cfg = s.cfg

/-- 44_reassembly.md R237: contexts change only by RXPKT, CTXFLUSH and reset: no other command changes one, and no step does
but reset and a transaction that decodes to RXPKT or CTXFLUSH. -/
def Obligations.ContextsChangeOnlyByReceiveAndFlush : Prop :=
  (∀ (i : Instr) (s t : State), (∀ h, i ≠ .rxpkt h) → (∀ sel, i ≠ .ctxflush sel) → exec i s = .next t →
    t.ctxs = s.ctxs) ∧
  (∀ s t : State, txEngineStep s = .next t → t.ctxs = s.ctxs) ∧
  ∀ s t : State, (∀ rest, s.inputs ≠ .reset :: rest) →
    (∀ words rest, s.inputs = .command words :: rest →
      (∀ h, decode words ≠ .ok (.rxpkt h)) ∧ ∀ sel, decode words ≠ .ok (.ctxflush sel)) →
    step s = .next t → t.ctxs = s.ctxs

/-- 70_reset_and_hazards.md R334: while a message is being sent no step but reset changes the TX message memory or the
message's destination, tag, length or packet count; on a running engine a TXWR inside TxMem and every TXMSG answer ERR_BUSY
and change nothing. -/
def Obligations.MessageIsStableWhileSending : Prop :=
  (∀ s t : State, s.tx.phase ≠ .idle → (∀ rest, s.inputs ≠ .reset :: rest) → step s = .next t →
    t.txMem = s.txMem ∧ t.tx.dest = s.tx.dest ∧ t.tx.tag = s.tx.tag ∧ t.tx.tagAlloc = s.tx.tagAlloc ∧
    t.tx.len = s.tx.len ∧ t.tx.n = s.tx.n) ∧
  ∀ s : State, s.tx.phase ≠ .idle → s.halted = false →
    (∀ (addr : BitVec 16) (d : Byte), addr.toNat < s.params.txmemCap →
      exec (.txwr addr d) s = .next { s with response := some ⟨.errBusy, 0⟩ }) ∧
    ∀ (dest : Byte) (mode : TagMode) (len : BitVec 16),
      exec (.txmsg dest mode len) s = .next { s with response := some ⟨.errBusy, 0⟩ }

/-! ### The arena -/

/-- 41_arena.md R131: ALLOC on a running engine: ERR_LEN first, then ERR_NOBUF, else the lowest free buffer with its window,
every byte drawn anew, and its handle as DATA. Nothing else changes. -/
def Obligations.AllocTakesTheLowestFreeBuffer : Prop :=
  ∀ (s : State) (len : BitVec 16), s.halted = false →
    (248 < len.toNat → exec (.alloc len) s = .next { s with response := some ⟨.errLen, 0⟩ }) ∧
    (len.toNat ≤ 248 → (∀ h < s.nbuf, (s.buf h).alloc = true) →
      exec (.alloc len) s = .next { s with response := some ⟨.errNoBuf, 0⟩ }) ∧
    (∀ h < s.nbuf, len.toNat ≤ 248 → (s.buf h).alloc = false → (∀ h' < h, (s.buf h').alloc = true) →
      exec (.alloc len) s = .next { s with
        bufs := s.bufs.set h
          { alloc := true, owner := .cmd, start := s.params.headroom, hdr := s.params.headroom,
            endOff := s.params.headroom + 4 + len.toNat, data := Memory.drawn s.draws }
        draws := s.draws + 1
        response := some ⟨.ok, BitVec.ofNat 32 h⟩ })

/-- 41_arena.md R132: FREE releases a live buffer of the command side and changes nothing else; the TX engine's buffer
faults with OWNED; a handle that is not live faults as CheckHandle says. -/
def Obligations.FreeReleasesTheBuffer : Prop :=
  ∀ (s : State) (h : Byte), s.halted = false →
    checksHandle (.free h) h s ∧
    (s.live h → (s.buf h.toNat).owner = .cmd →
      exec (.free h) s = .next { s with
        bufs := s.bufs.set h.toNat { s.buf h.toNat with alloc := false }, response := some ⟨.ok, 0⟩ }) ∧
    (s.live h → (s.buf h.toNat).owner = .txeng →
      exec (.free h) s =
        .next { s with fault := ⟨true, .owned, 0x02#8, h⟩, response := some ⟨.fault, 0⟩ })

/-- 41_arena.md R133 to R136: HDRV, PAYV, SIZE and WINV of a live buffer answer the view (base in DATA[31:16], length in
DATA[15:0]) or the payload length, and change nothing else. -/
def Obligations.ViewsReportTheCurrentBounds : Prop :=
  ∀ (s : State) (h : Byte), s.halted = false →
    (checksHandle (.hdrv h) h s ∧ checksHandle (.payv h) h s ∧ checksHandle (.size h) h s ∧
      checksHandle (.winv h) h s) ∧
    (s.live h →
      exec (.hdrv h) s = .next { s with
        response := some ⟨.ok, BitVec.ofNat 16 (s.buf h.toNat).hdr ++ BitVec.ofNat 16 4⟩ } ∧
      exec (.payv h) s = .next { s with
        response := some ⟨.ok, BitVec.ofNat 16 ((s.buf h.toNat).hdr + 4) ++
          BitVec.ofNat 16 ((s.buf h.toNat).endOff - (s.buf h.toNat).hdr - 4)⟩ } ∧
      exec (.size h) s = .next { s with
        response := some ⟨.ok, BitVec.ofNat 32 ((s.buf h.toNat).endOff - (s.buf h.toNat).hdr - 4)⟩ } ∧
      exec (.winv h) s = .next { s with
        response := some ⟨.ok, BitVec.ofNat 16 (s.buf h.toNat).start ++
          BitVec.ofNat 16 ((s.buf h.toNat).endOff - (s.buf h.toNat).start)⟩ })

/-- 41_arena.md R137: GROWF lowers `start` by n, or answers ERR_UNDERFLOW with the buffer unmodified. -/
def Obligations.GrowFrontMovesTheStart : Prop :=
  ∀ (s : State) (h : Byte) (n : BitVec 16), s.halted = false →
    checksHandle (.growf h n) h s ∧
    (s.live h → (s.buf h.toNat).start < n.toNat →
      exec (.growf h n) s = .next { s with response := some ⟨.errUnderflow, 0⟩ }) ∧
    (s.live h → n.toNat ≤ (s.buf h.toNat).start →
      exec (.growf h n) s = .next { s with
        bufs := s.bufs.set h.toNat { s.buf h.toNat with start := (s.buf h.toNat).start - n.toNat }
        response := some ⟨.ok, 0⟩ })

/-- 41_arena.md R138: GROWB raises `end` by n, or answers ERR_FULL with the buffer unmodified. -/
def Obligations.GrowBackMovesTheEnd : Prop :=
  ∀ (s : State) (h : Byte) (n : BitVec 16), s.halted = false →
    checksHandle (.growb h n) h s ∧
    (s.live h → s.cap < (s.buf h.toNat).endOff + n.toNat →
      exec (.growb h n) s = .next { s with response := some ⟨.errFull, 0⟩ }) ∧
    (s.live h → (s.buf h.toNat).endOff + n.toNat ≤ s.cap →
      exec (.growb h n) s = .next { s with
        bufs := s.bufs.set h.toNat { s.buf h.toNat with endOff := (s.buf h.toNat).endOff + n.toNat }
        response := some ⟨.ok, 0⟩ })

/-- 41_arena.md R139: APPEND writes all its bytes from `end` up and raises `end`, or answers ERR_FULL with the buffer
unmodified. Every other byte, of this buffer and of every other, and every other field are unchanged. -/
def Obligations.AppendCopiesAllOrNothing : Prop :=
  ∀ (s : State) (h : Byte) (data : List Byte), s.halted = false →
    checksHandle (.append h data) h s ∧
    (s.live h → s.cap < (s.buf h.toNat).endOff + data.length →
      exec (.append h data) s = .next { s with response := some ⟨.errFull, 0⟩ }) ∧
    (s.live h → (s.buf h.toNat).endOff + data.length ≤ s.cap →
      ∃ t : State, exec (.append h data) s = .next t ∧
        t = { s with bufs := t.bufs, response := some ⟨.ok, 0⟩ } ∧
        t.nbuf = s.nbuf ∧ (∀ h', h' ≠ h.toNat → t.buf h' = s.buf h') ∧
        t.buf h.toNat = { s.buf h.toNat with
          endOff := (s.buf h.toNat).endOff + data.length, data := (t.buf h.toNat).data } ∧
        (∀ j (hj : j < data.length), (t.buf h.toNat).data.read ((s.buf h.toNat).endOff + j) = data[j]) ∧
        ∀ a, (a < (s.buf h.toNat).endOff ∨ (s.buf h.toNat).endOff + data.length ≤ a) →
          (t.buf h.toNat).data.read a = (s.buf h.toNat).data.read a)

/-- 41_arena.md R140: RD8 of a live buffer whose window is in order (10_state.md R31) answers the byte the region and the
index name and changes nothing else; RG = 3 faults with BAD_REGION, an index past the region with OUT_OF_BOUNDS. -/
def Obligations.ReadByteThroughARegion : Prop :=
  ∀ (s : State) (h : Byte) (rg : Region) (idx : BitVec 16), s.halted = false →
    checksHandle (.rd8 h rg idx) h s ∧
    (s.live h → rg = .reserved →
      exec (.rd8 h rg idx) s =
        .next { s with fault := ⟨true, .badRegion, 0x0A#8, h⟩, response := some ⟨.fault, 0⟩ }) ∧
    ∀ base len : Nat, s.live h → (s.buf h.toNat).regionIs rg base len →
      (len ≤ idx.toNat →
        exec (.rd8 h rg idx) s =
          .next { s with fault := ⟨true, .outOfBounds, 0x0A#8, h⟩, response := some ⟨.fault, 0⟩ }) ∧
      (idx.toNat < len → (s.buf h.toNat).windowOk s.params →
        exec (.rd8 h rg idx) s = .next { s with
          response := some ⟨.ok, ((s.buf h.toNat).data.read (base + idx.toNat)).setWidth 32⟩ })

/-- 41_arena.md R141: WR8 of a live buffer whose window is in order (10_state.md R31) writes the one byte the region and the
index name; every other byte and every other field are unchanged; its faults are RD8's. -/
def Obligations.WriteByteThroughARegion : Prop :=
  ∀ (s : State) (h : Byte) (rg : Region) (idx : BitVec 16) (d : Byte), s.halted = false →
    checksHandle (.wr8 h rg idx d) h s ∧
    (s.live h → rg = .reserved →
      exec (.wr8 h rg idx d) s =
        .next { s with fault := ⟨true, .badRegion, 0x0B#8, h⟩, response := some ⟨.fault, 0⟩ }) ∧
    ∀ base len : Nat, s.live h → (s.buf h.toNat).regionIs rg base len →
      (len ≤ idx.toNat →
        exec (.wr8 h rg idx d) s =
          .next { s with fault := ⟨true, .outOfBounds, 0x0B#8, h⟩, response := some ⟨.fault, 0⟩ }) ∧
      (idx.toNat < len → (s.buf h.toNat).windowOk s.params →
        ∃ t : State, exec (.wr8 h rg idx d) s = .next t ∧
          t = { s with bufs := t.bufs, response := some ⟨.ok, 0⟩ } ∧
          t.nbuf = s.nbuf ∧ (∀ h', h' ≠ h.toNat → t.buf h' = s.buf h') ∧
          t.buf h.toNat = { s.buf h.toNat with data := (t.buf h.toNat).data } ∧
          (t.buf h.toNat).data.read (base + idx.toNat) = d ∧
          ∀ a, a ≠ base + idx.toNat → (t.buf h.toNat).data.read a = (s.buf h.toNat).data.read a)

/-! ### The header codec -/

/-- 42_codec.md R172: HENC answers the header's four bytes, byte0 in DATA[31:24], and changes nothing else. -/
def Obligations.HencAnswersTheHeader : Prop :=
  ∀ (s : State) (dest src : Byte) (c : Control), s.halted = false →
    ∃ data : Word32, exec (.henc dest src c) s = .next { s with response := some ⟨.ok, data⟩ } ∧
      data.extractLsb' 24 8 = 0x01#8 ∧ data.extractLsb' 16 8 = dest ∧ data.extractLsb' 8 8 = src ∧
      data.getLsbD 7 = c.som ∧ data.getLsbD 6 = c.eom ∧ data.extractLsb' 4 2 = c.seq ∧ data.getLsbD 3 = c.tagOwner ∧
      data.extractLsb' 0 3 = c.tag

/-- 42_codec.md R173: HDEC answers destination, source, version and control byte, with OK exactly when byte0 is 0x01, and
changes nothing else. -/
def Obligations.HdecAnswersTheFields : Prop :=
  ∀ (s : State) (w : Word32), s.halted = false →
    ∃ data : Word32,
      exec (.hdec w) s = .next { s with
        response := some ⟨if w.extractLsb' 24 8 = 0x01#8 then .ok else .errBadVersion, data⟩ } ∧
      data.extractLsb' 24 8 = w.extractLsb' 16 8 ∧ data.extractLsb' 16 8 = w.extractLsb' 8 8 ∧
      data.extractLsb' 8 8 = w.extractLsb' 24 8 ∧ data.extractLsb' 0 8 = w.extractLsb' 0 8

/-! ### The fragmentation engine -/

/-- 43_fragmentation.md R190, R191: a message of `len` bytes has n = max(1, ⌈len / 248⌉) packets; every chunk but the last
holds 248 bytes, the last the rest, which is 1 to 248 bytes of a message that is not empty; together they hold `len`
bytes. -/
def Obligations.ChunksCoverTheMessage : Prop :=
  ∀ len : Nat,
    1 ≤ pktCount len ∧ len ≤ pktCount len * 248 ∧ (0 < len → (pktCount len - 1) * 248 < len) ∧
    (len = 0 → pktCount len = 1) ∧
    (∀ i, i + 1 < pktCount len → chunkLen len i = 248) ∧
    chunkLen len (pktCount len - 1) = len - (pktCount len - 1) * 248 ∧
    (0 < len → 1 ≤ chunkLen len (pktCount len - 1) ∧ chunkLen len (pktCount len - 1) ≤ 248) ∧
    ((List.range (pktCount len)).map (chunkLen len)).sum = len

/-- 43_fragmentation.md R200: TXWR: the bounds fault, then ERR_BUSY, else one byte of TxMem written, every other byte and
every other field unchanged. -/
def Obligations.TxwrWritesOneByte : Prop :=
  ∀ (s : State) (addr : BitVec 16) (d : Byte), s.halted = false →
    (s.params.txmemCap ≤ addr.toNat →
      exec (.txwr addr d) s =
        .next { s with fault := ⟨true, .outOfBounds, 0x20#8, 0x00#8⟩, response := some ⟨.fault, 0⟩ }) ∧
    (addr.toNat < s.params.txmemCap → s.tx.phase ≠ .idle →
      exec (.txwr addr d) s = .next { s with response := some ⟨.errBusy, 0⟩ }) ∧
    (addr.toNat < s.params.txmemCap → s.tx.phase = .idle →
      ∃ t : State, exec (.txwr addr d) s = .next t ∧
        t = { s with txMem := t.txMem, response := some ⟨.ok, 0⟩ } ∧ t.txMem.draw = s.txMem.draw ∧
        t.txMem.read addr.toNat = d ∧ ∀ a, a ≠ addr.toNat → t.txMem.read a = s.txMem.read a)

/-- 43_fragmentation.md R201, R202: TXMSG: ERR_BUSY, ERR_NO_ROUTE, ERR_LEN and ERR_TAG_EXHAUSTED in that order, each with
nothing changed; else the send starts with the given tag or, in allocate mode, the lowest tag of the destination that is
not busy, which becomes busy. Nothing else changes. -/
def Obligations.TxmsgStartsASend : Prop :=
  ∀ (s : State) (dest : Byte) (len : BitVec 16), s.halted = false →
    (∀ mode, s.tx.phase ≠ .idle →
      exec (.txmsg dest mode len) s = .next { s with response := some ⟨.errBusy, 0⟩ }) ∧
    (∀ mode, s.tx.phase = .idle → s.cfg.bound = false →
      exec (.txmsg dest mode len) s = .next { s with response := some ⟨.errNoRoute, 0⟩ }) ∧
    (∀ mode, s.tx.phase = .idle → s.cfg.bound = true → s.params.txmemCap < len.toNat →
      exec (.txmsg dest mode len) s = .next { s with response := some ⟨.errLen, 0⟩ }) ∧
    (s.tx.phase = .idle → s.cfg.bound = true → len.toNat ≤ s.params.txmemCap → (∀ g, s.tagBusy dest g = true) →
      exec (.txmsg dest .auto len) s = .next { s with response := some ⟨.errTagExhausted, 0⟩ }) ∧
    (∀ g : BitVec 3, s.tx.phase = .idle → s.cfg.bound = true → len.toNat ≤ s.params.txmemCap →
      exec (.txmsg dest (.explicit g) len) s = .next { s with
        tx := { phase := .next, dest := dest, tag := g, tagAlloc := false, len := len.toNat, n := pktCount len.toNat,
                i := 0, cur := 0, code := s.tx.code }
        response := some ⟨.ok, g.setWidth 32⟩ }) ∧
    (∀ g : BitVec 3, s.tx.phase = .idle → s.cfg.bound = true → len.toNat ≤ s.params.txmemCap →
      s.tagBusy dest g = false → (∀ u : BitVec 3, u.toNat < g.toNat → s.tagBusy dest u = true) →
      ∃ t : State, exec (.txmsg dest .auto len) s = .next t ∧
        t = { s with
          busyTags := t.busyTags
          tx := { phase := .next, dest := dest, tag := g, tagAlloc := true, len := len.toNat, n := pktCount len.toNat,
                  i := 0, cur := 0, code := s.tx.code }
          response := some ⟨.ok, g.setWidth 32⟩ } ∧
        ∀ (d : Byte) (u : BitVec 3), t.tagBusy d u = true ↔ (d = dest ∧ u = g) ∨ s.tagBusy d u = true)

/-- 43_fragmentation.md R208: TAGFREE marks its tag not busy, and no other, whether or not it was busy; nothing else
changes. -/
def Obligations.TagfreeReleasesOneTag : Prop :=
  ∀ (s : State) (dest : Byte) (g : BitVec 3), s.halted = false →
    ∃ t : State, exec (.tagfree dest g) s = .next t ∧
      t = { s with busyTags := t.busyTags, response := some ⟨.ok, 0⟩ } ∧
      ∀ (d : Byte) (u : BitVec 3), t.tagBusy d u = true ↔ ¬(d = dest ∧ u = g) ∧ s.tagBusy d u = true

/-- 43_fragmentation.md R206, R207: TXACK frees the packet's buffer; a success goes on to the next packet or, at the last,
ends the message with TX_DONE(OK) and its tag still busy; a failure ends it with TX_DONE(ERR_BINDING) and releases the tag
the message allocated; with no packet outstanding it faults. Nothing else changes. -/
def Obligations.TxackEndsOrContinuesTheSend : Prop :=
  ∀ (s : State) (st : Byte), s.halted = false →
    (s.tx.phase ≠ .waitAck →
      exec (.txack st) s =
        .next { s with fault := ⟨true, .unexpectedAck, 0x23#8, 0x00#8⟩, response := some ⟨.fault, 0⟩ }) ∧
    (s.tx.phase = .waitAck → st = 0x00#8 → s.tx.i + 1 ≠ s.tx.n →
      exec (.txack st) s = .next { s with
        bufs := s.bufs.set s.tx.cur { s.buf s.tx.cur with alloc := false, owner := .cmd }
        tx := { s.tx with i := s.tx.i + 1, phase := .next }
        response := some ⟨.ok, 0⟩ }) ∧
    (s.tx.phase = .waitAck → st = 0x00#8 → s.tx.i + 1 = s.tx.n →
      exec (.txack st) s = .next { s with
        bufs := s.bufs.set s.tx.cur { s.buf s.tx.cur with alloc := false, owner := .cmd }
        tx := { s.tx with i := s.tx.i + 1, phase := .idle, code := .ok }
        events := s.events ++ [.txDone .ok]
        response := some ⟨.ok, 0⟩ }) ∧
    (s.tx.phase = .waitAck → st ≠ 0x00#8 →
      ∃ t : State, exec (.txack st) s = .next t ∧
        t = { s with
          bufs := s.bufs.set s.tx.cur { s.buf s.tx.cur with alloc := false, owner := .cmd }
          busyTags := t.busyTags
          tx := { s.tx with phase := .idle, code := .errBinding }
          events := s.events ++ [.txDone .errBinding]
          response := some ⟨.ok, 0⟩ } ∧
        ∀ (d : Byte) (u : BitVec 3), t.tagBusy d u = true ↔
          s.tagBusy d u = true ∧ ¬(s.tx.tagAlloc = true ∧ d = s.tx.dest ∧ u = s.tx.tag))

/-- 43_fragmentation.md R203 (with R191, R192): the TX engine's step on a running engine in phase NEXT with the gate open:
the lowest free buffer becomes the engine's, holds the packet's header and chunk from HEADROOM up and drawn bytes
elsewhere, and PKT_OUT carries exactly those bytes. Every other buffer and every other field are unchanged. The message
lies in TxMem (10_state.md R37). -/
def Obligations.TxEngineSendsTheNextPacket : Prop :=
  ∀ (s : State) (rest : List Input) (h : Nat),
    s.inputs = .txEngine :: rest → s.halted = false → s.tx.phase = .next → s.gate = true →
    s.tx.len ≤ s.params.txmemCap →
    h < s.nbuf → (s.buf h).alloc = false → (∀ h' < h, (s.buf h').alloc = true) →
    ∃ (t : State) (frame : List Byte), step s = .next t ∧
      frame =
        [0x01#8, s.tx.dest, s.cfg.localEid,
          ctlEncode { som := decide (s.tx.i = 0), eom := decide (s.tx.i + 1 = s.tx.n),
                      seq := BitVec.ofNat 2 (s.tx.i % 4), tagOwner := true, tag := s.tx.tag }] ++
        (List.range (min 248 (s.tx.len - s.tx.i * 248))).map (fun j => s.txMem.read (s.tx.i * 248 + j)) ∧
      t = { s with
        bufs := t.bufs
        tx := { s.tx with cur := h, phase := .waitAck }
        events := s.events ++ [.pktOut h frame]
        draws := s.draws + 1
        inputs := rest
        response := none } ∧
      t.nbuf = s.nbuf ∧ (∀ h', h' ≠ h → t.buf h' = s.buf h') ∧
      (t.buf h).alloc = true ∧ (t.buf h).owner = .txeng ∧ (t.buf h).start = s.params.headroom ∧
      (t.buf h).hdr = s.params.headroom ∧ (t.buf h).endOff = s.params.headroom + frame.length ∧
      (∀ j (hj : j < frame.length), (t.buf h).data.read (s.params.headroom + j) = frame[j]) ∧
      ∀ a, (a < s.params.headroom ∨ s.params.headroom + frame.length ≤ a) →
        (t.buf h).data.read a = Config.drawnByte s.draws a

/-- 43_fragmentation.md R203, R204, R207: the TX engine's turn where it sends nothing: with the gate closed the message ends
with ERR_TX_DISABLED under FAIL and is held, unchanged, under BLOCK; with the gate open and no free buffer it ends with
ERR_NOBUF; in another phase it has no step. A failed message's own tag is released. -/
def Obligations.TxEngineEndsOrHoldsTheMessage : Prop :=
  ∀ (s : State) (rest : List Input), s.inputs = .txEngine :: rest → s.halted = false →
    (s.tx.phase ≠ .next ∨ (s.gate = false ∧ s.cfg.gatePolicy = .block) →
      step s = .next { s with inputs := rest, response := none }) ∧
    (∀ code : Status, s.tx.phase = .next →
      (s.gate = false ∧ s.cfg.gatePolicy = .fail ∧ code = .errTxDisabled) ∨
        (s.gate = true ∧ (∀ h < s.nbuf, (s.buf h).alloc = true) ∧ code = .errNoBuf) →
      ∃ t : State, step s = .next t ∧
        t = { s with
          busyTags := t.busyTags
          tx := { s.tx with phase := .idle, code := code }
          events := s.events ++ [.txDone code]
          inputs := rest
          response := none } ∧
        ∀ (d : Byte) (u : BitVec 3), t.tagBusy d u = true ↔
          s.tagBusy d u = true ∧ ¬(s.tx.tagAlloc = true ∧ d = s.tx.dest ∧ u = s.tx.tag))

/-! ### The reassembly engine -/

/-- 44_reassembly.md R230: RXPKT of a ready buffer completes whatever the packet holds: the buffer and no other is
consumed, the status is one of the receive outcomes, no fault is recorded, and nothing of the transmit side, the
configuration or the other stores changes. The TX engine's buffer faults with OWNED. -/
def Obligations.RxpktConsumesEveryPacket : Prop :=
  ∀ (s : State) (h : Byte), s.halted = false →
    checksHandle (.rxpkt h) h s ∧
    (s.live h → (s.buf h.toNat).owner = .txeng →
      exec (.rxpkt h) s = .next { s with fault := ⟨true, .owned, 0x30#8, h⟩, response := some ⟨.fault, 0⟩ }) ∧
    (s.rxReady h →
      ∃ (t : State) (st : Status) (data : Word32), exec (.rxpkt h) s = .next t ∧
        t = { s with
          bufs := s.bufs.set h.toNat { s.buf h.toNat with alloc := false }
          ctxs := t.ctxs, events := t.events, response := some ⟨st, data⟩ } ∧
        (st = .rxAccepted ∨ st = .rxDelivered ∨ st.isDrop = true))

/-- 44_reassembly.md R231, R232: the acceptance filters in their order: version, route, length. A packet that fails one is
logged and dropped; but for the consumed buffer nothing changes. -/
def Obligations.RxFiltersDropAndLog : Prop :=
  ∀ (s : State) (h : Byte) (reason : Status), s.rxReady h →
    (((s.rxHeader h).ver ≠ 0x01#8 ∧ reason = .rxDropVersion) ∨
      ((s.rxHeader h).ver = 0x01#8 ∧
        ¬(s.cfg.bound = true ∧
          ((s.rxHeader h).dest = s.cfg.localEid ∨ (s.rxHeader h).dest ∈ s.params.acceptExtra)) ∧
        reason = .rxDropRoute) ∨
      ((s.rxHeader h).ver = 0x01#8 ∧ s.cfg.bound = true ∧
        ((s.rxHeader h).dest = s.cfg.localEid ∨ (s.rxHeader h).dest ∈ s.params.acceptExtra) ∧
        248 < (s.rxPayload h).length ∧ reason = .rxDropLength)) →
    exec (.rxpkt h) s = .next { s with
      bufs := s.bufs.set h.toNat { s.buf h.toNat with alloc := false }
      events := s.events ++ [.log reason (s.rxHeader h).src (s.rxHeader h).ctl.tag]
      response := some ⟨reason, 0⟩ }

/-- 44_reassembly.md R233: a packet with SOM that passed the filters, in a state with at most one live context per key
(10_state.md R34): a prior context of its key is destroyed; with EOM it is delivered alone; else the lowest free slot
(the destroyed one counts) holds it; with none free it is dropped. Every other context is unchanged. -/
def Obligations.RxFirstPacketStartsAContext : Prop :=
  ∀ (s : State) (h : Byte) (src : Byte) (c : Control) (pay : List Byte),
    s.rxPasses h → s.contextInv → (s.rxHeader h).src = src → (s.rxHeader h).ctl = c → s.rxPayload h = pay →
    c.som = true →
    (c.eom = true →
      ∃ t : State, exec (.rxpkt h) s = .next t ∧
        t = { s.consumed h with
          ctxs := t.ctxs
          events := s.events ++ [.deliver src pay.length pay]
          response := some ⟨.rxDelivered, BitVec.ofNat 32 pay.length⟩ } ∧
        t.nctx = s.nctx ∧
        ∀ k < s.nctx, (s.holds k src c.tag → t.ctx k = { s.ctx k with valid := false }) ∧
          (¬s.holds k src c.tag → t.ctx k = s.ctx k)) ∧
    (c.eom = false → (∀ k < s.nctx, (s.ctx k).valid = true ∧ ¬s.holds k src c.tag) →
      exec (.rxpkt h) s = .next { s.consumed h with
        events := s.events ++ [.log .rxDropNoSlot src c.tag], response := some ⟨.rxDropNoSlot, 0⟩ }) ∧
    (∀ k < s.nctx, c.eom = false → ((s.ctx k).valid = false ∨ s.holds k src c.tag) →
      (∀ j < k, (s.ctx j).valid = true ∧ ¬s.holds j src c.tag) →
      ∃ t : State, exec (.rxpkt h) s = .next t ∧
        t = { s.consumed h with ctxs := t.ctxs, response := some ⟨.rxAccepted, 0⟩ } ∧
        t.nctx = s.nctx ∧
        t.ctx k = { valid := true, src := src, tag := c.tag, exp := c.seq + 1#2, len := pay.length,
                    acc := (t.ctx k).acc } ∧
        (∀ j (hj : j < pay.length), (t.ctx k).acc.read j = pay[j]) ∧
        (∀ j, pay.length ≤ j → (t.ctx k).acc.read j = (s.ctx k).acc.read j) ∧
        ∀ j < s.nctx, j ≠ k → (s.holds j src c.tag → t.ctx j = { s.ctx j with valid := false }) ∧
          (¬s.holds j src c.tag → t.ctx j = s.ctx j))

/-- 44_reassembly.md R234: a packet without SOM that passed the filters, in a state with at most one live context per key:
dropped with no context; with another SEQ than expected, or past MAX_MSG_LEN, dropped and the context destroyed; else
appended and the expected SEQ advanced, and at EOM the bytes of all its packets are delivered and the context destroyed.
Every other context is unchanged. -/
def Obligations.RxNextPacketExtendsItsContext : Prop :=
  ∀ (s : State) (h : Byte) (src : Byte) (c : Control) (pay : List Byte),
    s.rxPasses h → s.contextInv → (s.rxHeader h).src = src → (s.rxHeader h).ctl = c → s.rxPayload h = pay →
    c.som = false →
    (s.noContext src c.tag →
      exec (.rxpkt h) s = .next { s.consumed h with
        events := s.events ++ [.log .rxDropNoCtx src c.tag], response := some ⟨.rxDropNoCtx, 0⟩ }) ∧
    (∀ (k : Nat) (reason : Status), s.holds k src c.tag →
      (c.seq ≠ (s.ctx k).exp ∧ reason = .rxDropSeq) ∨
        (c.seq = (s.ctx k).exp ∧ s.params.maxMsgLen < (s.ctx k).len + pay.length ∧ reason = .rxDropOverflow) →
      exec (.rxpkt h) s = .next { s.consumed h with
        ctxs := s.ctxs.set k { s.ctx k with valid := false }
        events := s.events ++ [.log reason src c.tag]
        response := some ⟨reason, 0⟩ }) ∧
    (∀ k : Nat, s.holds k src c.tag → c.seq = (s.ctx k).exp →
      (s.ctx k).len + pay.length ≤ s.params.maxMsgLen →
      ∃ t : State, exec (.rxpkt h) s = .next t ∧
        (c.eom = false → t = { s.consumed h with ctxs := t.ctxs, response := some ⟨.rxAccepted, 0⟩ }) ∧
        (c.eom = true → t = { s.consumed h with
          ctxs := t.ctxs
          events := s.events ++
            [.deliver src ((s.ctx k).len + pay.length) ((s.ctx k).acc.readN 0 (s.ctx k).len ++ pay)]
          response := some ⟨.rxDelivered, BitVec.ofNat 32 ((s.ctx k).len + pay.length)⟩ }) ∧
        t.nctx = s.nctx ∧
        t.ctx k = { valid := !c.eom, src := src, tag := c.tag, exp := (s.ctx k).exp + 1#2,
                    len := (s.ctx k).len + pay.length, acc := (t.ctx k).acc } ∧
        (∀ j (hj : j < pay.length), (t.ctx k).acc.read ((s.ctx k).len + j) = pay[j]) ∧
        (∀ j, (j < (s.ctx k).len ∨ (s.ctx k).len + pay.length ≤ j) →
          (t.ctx k).acc.read j = (s.ctx k).acc.read j) ∧
        ∀ j, j ≠ k → t.ctx j = s.ctx j)

/-- 44_reassembly.md R239: every drop of RXPKT emits exactly one LOG with the status as its reason and the source and tag of
the packet's header, even when the version check failed, and no other outcome of RXPKT emits a LOG. -/
def Obligations.EveryDropIsLoggedOnce : Prop :=
  ∀ (s t : State) (h : Byte) (st : Status) (data : Word32),
    exec (.rxpkt h) s = .next t → t.response = some ⟨st, data⟩ →
    (st.isDrop = true → t.events = s.events ++ [.log st (s.rxHeader h).src (s.rxHeader h).ctl.tag]) ∧
    (st.isDrop = false →
      ∃ es : List Event, t.events = s.events ++ es ∧ ∀ reason src tag, Event.log reason src tag ∉ es)

/-- 44_reassembly.md R238: CTXFLUSH of a key destroys its context and answers 1, or answers 0; CTXFLUSH of all destroys
every context and answers how many were live. Nothing else changes: no event, no buffer. -/
def Obligations.CtxflushDestroysContexts : Prop :=
  ∀ s : State, s.halted = false →
    (∀ (src : Byte) (tag : BitVec 3), s.noContext src tag →
      exec (.ctxflush (.key src tag)) s = .next { s with response := some ⟨.ok, 0⟩ }) ∧
    (∀ (src : Byte) (tag : BitVec 3) (k : Nat), s.contextInv → s.holds k src tag →
      exec (.ctxflush (.key src tag)) s = .next { s with
        ctxs := s.ctxs.set k { s.ctx k with valid := false }, response := some ⟨.ok, 1⟩ }) ∧
    ∃ t : State, exec (.ctxflush .all) s = .next t ∧
      t = { s with
        ctxs := t.ctxs
        response := some ⟨.ok, BitVec.ofNat 32 ((List.range s.nctx).filter (fun k => (s.ctx k).valid)).length⟩ } ∧
      t.nctx = s.nctx ∧ ∀ k < s.nctx, t.ctx k = { s.ctx k with valid := false }

/-- 44_reassembly.md R231, R233, R234, of the reassembly function alone (`ReceivedPacketsDeliverTheMessage` is of runs of
RXPKT): the packets of a message of at most MAX_MSG_LEN bytes, given to it in order in a state that accepts their
destination and has a slot for their key, make it emit exactly one DELIVER, with the original bytes; afterwards no context
of the key is live, and every context of another key is as it was. -/
def Obligations.FragmentsReassembleToTheMessage : Prop :=
  ∀ (s : State) (dest src : Byte) (tag : BitVec 3) (m : List Byte),
    s.Inv → s.accepts dest = true → m.length ≤ s.params.maxMsgLen →
    (∃ k < s.nctx, (s.ctx k).valid = false ∨ s.holds k src tag) →
    (receiveAll s (packetsOf dest src tag m)).events = s.events ++ [.deliver src m.length m] ∧
    (receiveAll s (packetsOf dest src tag m)).noContext src tag ∧
    ∀ k < s.nctx, (s.ctx k).valid = true → ¬s.holds k src tag →
      (receiveAll s (packetsOf dest src tag m)).ctx k = s.ctx k

/-! ### Control -/

/-- 45_control.md R270: NOP answers OK and changes nothing else. -/
def Obligations.NopChangesNothing : Prop :=
  ∀ s : State, s.halted = false → exec .nop s = .next { s with response := some ⟨.ok, 0⟩ }

/-- 45_control.md R271, R272: CSRR answers the value of each CSR, bit for bit, and changes nothing else; above 0x07 it faults
with BAD_CSR and the CSR number as INFO. The numbers in TXSTAT.CODE and FAULT.CAUSE are those of `CodesAreTheTablesNumbers`. -/
def Obligations.CsrrAnswersTheRegister : Prop :=
  ∀ s : State,
    exec (.csrr 0x00#8) s = .next { s with response := some ⟨.ok,
      0#22 ++ BitVec.ofBool (decide (s.cfg.gatePolicy = .block)) ++ BitVec.ofBool s.cfg.bound ++ s.cfg.localEid⟩ } ∧
    exec (.csrr 0x01#8) s = .next { s with response := some ⟨.ok, 0#31 ++ BitVec.ofBool s.gate⟩ } ∧
    exec (.csrr 0x02#8) s = .next { s with response := some ⟨.ok,
      BitVec.ofNat 16 s.tx.i ++ s.tx.code.code ++ 0#5 ++
        BitVec.ofBool (decide (s.tx.phase = .next ∧ s.gate = false ∧ s.cfg.gatePolicy = .block)) ++
        BitVec.ofBool (decide (s.tx.phase = .waitAck)) ++ BitVec.ofBool (decide (s.tx.phase ≠ .idle))⟩ } ∧
    exec (.csrr 0x03#8) s = .next { s with response := some ⟨.ok,
      0#8 ++ s.fault.info ++ s.fault.opcode ++ s.fault.cause.code ++ 0#3 ++ BitVec.ofBool s.fault.valid⟩ } ∧
    exec (.csrr 0x04#8) s = .next { s with response := some ⟨.ok,
      BitVec.ofNat 16 s.nbuf ++
        BitVec.ofNat 16 ((List.range s.nbuf).filter (fun h => !(s.buf h).alloc)).length⟩ } ∧
    exec (.csrr 0x05#8) s = .next { s with response := some ⟨.ok,
      BitVec.ofNat 16 s.nctx ++
        BitVec.ofNat 16 ((List.range s.nctx).filter (fun k => (s.ctx k).valid)).length⟩ } ∧
    exec (.csrr 0x06#8) s = .next { s with response := some ⟨.ok,
      BitVec.ofNat 16 s.params.headroom ++ BitVec.ofNat 16 s.params.cap⟩ } ∧
    exec (.csrr 0x07#8) s = .next { s with response := some ⟨.ok,
      BitVec.ofNat 16 s.params.txmemCap ++ BitVec.ofNat 16 s.params.maxMsgLen⟩ } ∧
    ∀ csr : Byte, 7 < csr.toNat → s.halted = false →
      exec (.csrr csr) s =
        .next { s with fault := ⟨true, .badCsr, 0x40#8, csr⟩, response := some ⟨.fault, 0⟩ }

/-- 45_control.md R274: CSRW of CFG writes LOCAL_EID, BOUND and GATE_POLICY while unbound, and answers ERR_ALREADY_BOUND with
nothing changed once bound. -/
def Obligations.CsrwRegistersTheBus : Prop :=
  ∀ (s : State) (val : Word32), s.halted = false →
    (s.cfg.bound = true →
      exec (.csrw 0x00#8 val) s = .next { s with response := some ⟨.errAlreadyBound, 0⟩ }) ∧
    (s.cfg.bound = false →
      exec (.csrw 0x00#8 val) s = .next { s with
        cfg := { localEid := val.extractLsb' 0 8, bound := val.getLsbD 8,
                 gatePolicy := if val.getLsbD 9 then .block else .fail }
        response := some ⟨.ok, 0⟩ })

/-- 45_control.md R275, R276: CSRW of GATE writes TX_ENABLED from bit 0 and nothing else; of a read-only CSR it changes
nothing; above 0x07 it faults with BAD_CSR and the CSR number as INFO. -/
def Obligations.CsrwWritesTheGateAndNoReadOnlyRegister : Prop :=
  ∀ (s : State) (val : Word32), s.halted = false →
    exec (.csrw 0x01#8 val) s = .next { s with gate := val.getLsbD 0, response := some ⟨.ok, 0⟩ } ∧
    (∀ csr : Byte, 2 ≤ csr.toNat → csr.toNat ≤ 7 →
      exec (.csrw csr val) s = .next { s with response := some ⟨.ok, 0⟩ }) ∧
    ∀ csr : Byte, 7 < csr.toNat →
      exec (.csrw csr val) s =
        .next { s with fault := ⟨true, .badCsr, 0x41#8, csr⟩, response := some ⟨.fault, 0⟩ }

/-! ### The numbers of the tables -/

/-- 30_encoding.md R104 and 60_exceptions.md R290: the number of every status code and of every fault cause, which a response's
STATUS, TXSTAT.CODE and FAULT.CAUSE hold. -/
def Obligations.CodesAreTheTablesNumbers : Prop :=
  (Status.ok.code = 0x00#8 ∧ Status.errLen.code = 0x01#8 ∧ Status.errNoBuf.code = 0x02#8 ∧
    Status.errUnderflow.code = 0x03#8 ∧ Status.errFull.code = 0x04#8 ∧ Status.errBusy.code = 0x05#8 ∧
    Status.errTagExhausted.code = 0x06#8 ∧ Status.errNoRoute.code = 0x07#8 ∧ Status.errTxDisabled.code = 0x08#8 ∧
    Status.errBinding.code = 0x09#8 ∧ Status.errBadVersion.code = 0x0A#8 ∧ Status.errAlreadyBound.code = 0x0B#8 ∧
    Status.rxAccepted.code = 0x10#8 ∧ Status.rxDelivered.code = 0x11#8 ∧ Status.rxDropVersion.code = 0x12#8 ∧
    Status.rxDropRoute.code = 0x13#8 ∧ Status.rxDropLength.code = 0x14#8 ∧ Status.rxDropNoCtx.code = 0x15#8 ∧
    Status.rxDropSeq.code = 0x16#8 ∧ Status.rxDropOverflow.code = 0x17#8 ∧ Status.rxDropNoSlot.code = 0x18#8 ∧
    Status.fault.code = 0xFE#8 ∧ Status.faulted.code = 0xFF#8) ∧
  Cause.noFault.code = 0x0#4 ∧ Cause.illegalOpcode.code = 0x1#4 ∧ Cause.reservedField.code = 0x2#4 ∧
  Cause.badHandle.code = 0x3#4 ∧ Cause.notAllocated.code = 0x4#4 ∧ Cause.owned.code = 0x5#4 ∧
  Cause.badRegion.code = 0x6#4 ∧ Cause.outOfBounds.code = 0x7#4 ∧ Cause.badCsr.code = 0x8#4 ∧
  Cause.unexpectedAck.code = 0x9#4

/-! ### A whole message -/

/-- 43_fragmentation.md R209: the frame of every PKT_OUT is the packet of that index of the message in TxMem; and a send
whose gate stays open, with a free buffer, and whose packets are each acknowledged with success before the TX engine's next
turn, emits the packets of its message in order, each in the lowest free buffer, and then TX_DONE(OK), with its tag as it
was. -/
def Obligations.SendEmitsThePacketsOfTheMessage : Prop :=
  (∀ (s : State) (rest : List Input) (h : Nat),
    s.inputs = .txEngine :: rest → s.halted = false → s.tx.phase = .next → s.gate = true →
    s.tx.len ≤ s.params.txmemCap → s.tx.n = pktCount s.tx.len → s.tx.i < s.tx.n → s.lowestFree h →
    ∃ t : State, step s = .next t ∧
      t.events = s.events ++
        [.pktOut h ((packetsOf s.tx.dest s.cfg.localEid s.tx.tag s.txMessage).getD s.tx.i [])]) ∧
  ∀ (s : State) (rest : List Input) (h : Nat),
    s.Inv → s.inputs = sendTurns s.tx.n ++ rest → s.halted = false → s.tx.phase = .next → s.tx.i = 0 →
    s.gate = true → s.lowestFree h →
    ∃ t : State, runSteps (2 * s.tx.n) s = .next t ∧
      t.events = s.events ++
        (packetsOf s.tx.dest s.cfg.localEid s.tx.tag s.txMessage).map (fun frame => .pktOut h frame) ++
        [.txDone .ok] ∧
      t.tx = { s.tx with phase := .idle, code := .ok, i := s.tx.n, cur := h } ∧
      t.inputs = rest ∧ t.txMem = s.txMem ∧ t.busyTags = s.busyTags ∧ t.lowestFree h

/-- 44_reassembly.md R240 (a), with 43_fragmentation.md R209: the packets of a message of at most MAX_MSG_LEN bytes (the frames
of `SendEmitsThePacketsOfTheMessage`), each handed in order to RXPKT in a ready buffer of a running engine that accepts their
destination and has a slot for their key, with nothing in between that changes CFG or a context or emits an event, make it
emit exactly one DELIVER, with the original bytes, and answer RX_DELIVERED to the last; afterwards no context of the key is
live, and every context of another key is as it was. Such a run exists from every running engine with a free buffer. -/
def Obligations.ReceivedPacketsDeliverTheMessage : Prop :=
  ∀ (s : State) (dest src : Byte) (tag : BitVec 3) (m : List Byte),
    s.Inv → s.accepts dest = true → m.length ≤ s.params.maxMsgLen →
    (∃ k < s.nctx, (s.ctx k).valid = false ∨ s.holds k src tag) →
    (∀ t : State, rxRun (packetsOf dest src tag m) s t →
      t.events = s.events ++ [.deliver src m.length m] ∧
      t.response = some ⟨.rxDelivered, BitVec.ofNat 32 m.length⟩ ∧ t.halted = false ∧ t.noContext src tag ∧
      ∀ k < s.nctx, (s.ctx k).valid = true → ¬s.holds k src tag → t.ctx k = s.ctx k) ∧
    (s.halted = false → (∃ h < s.nbuf, (s.buf h).alloc = false) →
      ∃ t : State, rxRun (packetsOf dest src tag m) s t)
end

