-- ==== Sys2Proof/Laws/Encoding.lean ====
section
/-! SUPPORT. The laws of fields and their places in a command word, from which every encoding fact follows. -/

namespace Sys2Proof

@[simp] theorem field_or (a b : Word64) (lo n : Nat) : field (a ||| b) lo n = field a lo n ||| field b lo n := by
  ext i hi
  simp [field]

@[simp] theorem field_zero (lo n : Nat) : field 0#64 lo n = 0#n := by simp [field]

/-- A field placed at its bits reads back. -/
theorem field_place_same {n : Nat} (v : BitVec n) (lo : Nat) (h : lo + n ≤ 64) : field (place v lo) lo n = v := by
  ext i hi
  have : lo + i < 64 := by omega
  simp [field, place, this, BitVec.getLsbD_eq_getElem hi]

/-- A field placed elsewhere reads as 0. -/
theorem field_place_disjoint {m : Nat} (v : BitVec m) (lo lo' n : Nat) (h : lo' + n ≤ lo ∨ lo + m ≤ lo') :
    field (place v lo) lo' n = 0#n := by
  ext i hi
  simp only [field, place, BitVec.getElem_extractLsb', BitVec.getLsbD_shiftLeft, BitVec.getLsbD_setWidth,
    BitVec.getElem_zero]
  rcases h with h | h
  · have h1 : lo' + i < lo := by omega
    simp [h1]
  · simp [BitVec.getLsbD_of_ge v (lo' + i - lo) (by omega)]

/-- A field placed where a mask is 0 is not in the mask. -/
theorem place_and_eq_zero {n : Nat} (v : BitVec n) (lo : Nat) (mask : Word64) (h : field mask lo n = 0#n) :
    place v lo &&& mask = 0#64 := by
  apply BitVec.eq_of_getLsbD_eq
  intro i hi
  simp only [place, BitVec.getLsbD_and, BitVec.getLsbD_shiftLeft, BitVec.getLsbD_setWidth, BitVec.getLsbD_zero]
  by_cases h1 : i < lo
  · simp [h1]
  · by_cases h2 : i - lo < n
    · have hb := congrArg (fun x => x.getLsbD (i - lo)) h
      have e : lo + (i - lo) = i := by omega
      simp [field, h2, e] at hb
      simp [hb]
    · simp [BitVec.getLsbD_of_ge v (i - lo) (by omega)]

/-- Every opcode is found under its OP value (30_encoding.md R103). -/
@[simp] theorem opcodeOf_code (o : Opcode) : opcodeOf o.code = some o := by cases o <;> decide

/-- An OP value that has an opcode is that opcode's code (30_encoding.md R103). -/
theorem opcodeOf_eq_some {op : Byte} {o : Opcode} (h : opcodeOf op = some o) : o.code = op := by
  have := List.find?_some h
  simpa using this

@[simp] theorem regionOf_bits (r : Region) : regionOf r.bits = r := by cases r <;> decide

end Sys2Proof
end

