-- ==== Sys2Proof/Laws/Memory.lean ====
section
/-! SUPPORT. The laws of a byte store: a read gives the last byte written, a write leaves every other byte alone, and every
operation keeps the canonical form. -/

namespace Sys2Proof.Machine

/-! ### The cells -/

theorem findCell_putCell_same (l : List Host.Cell) (a : Nat) (v : Byte) : findCell (putCell l a v) a = some v := by
  induction l with
  | nil => simp [putCell, findCell]
  | cons c rest ih =>
    unfold putCell
    split
    · simp [findCell]
    · split
      · simp [findCell]
      · rename_i h
        simp [findCell, h, ih]

theorem findCell_putCell_other (l : List Host.Cell) (a b : Nat) (v : Byte) (h : b ≠ a) :
    findCell (putCell l a v) b = findCell l b := by
  induction l with
  | nil => simp [putCell, findCell, Ne.symm h]
  | cons c rest ih =>
    unfold putCell
    split
    · simp [findCell, Ne.symm h]
    · split
      · rename_i h1
        simp [findCell, h1, Ne.symm h]
      · simp [findCell, ih]

/-- The addresses of the cells after a write: the old ones and the written one. -/
theorem mem_putCell {l : List Host.Cell} {a : Nat} {v : Byte} {c : Host.Cell} (h : c ∈ putCell l a v) :
    c ∈ l ∨ c = (a, v) := by
  induction l with
  | nil => simpa [putCell] using h
  | cons d rest ih =>
    unfold putCell at h
    split at h
    · simp only [List.mem_cons] at h ⊢; tauto
    · split at h
      · simp only [List.mem_cons] at h ⊢; tauto
      · simp only [List.mem_cons] at h ⊢
        rcases h with h | h
        · exact .inl (.inl h)
        · rcases ih h with h | h
          · exact .inl (.inr h)
          · exact .inr h

theorem putCell_rising {l : List Host.Cell} (a : Nat) (v : Byte) (h : l.Pairwise (fun x y => x.1 < y.1)) :
    (putCell l a v).Pairwise (fun x y => x.1 < y.1) := by
  induction l with
  | nil => simp [putCell]
  | cons c rest ih =>
    rw [List.pairwise_cons] at h
    unfold putCell
    split
    · rename_i hlt
      refine List.pairwise_cons.2 ⟨fun d hd => ?_, List.pairwise_cons.2 h⟩
      rcases List.mem_cons.1 hd with rfl | hd
      · exact hlt
      · exact Nat.lt_trans hlt (h.1 d hd)
    · split
      · rename_i heq
        refine List.pairwise_cons.2 ⟨fun d hd => ?_, h.2⟩
        exact heq ▸ h.1 d hd
      · rename_i hnlt hne
        refine List.pairwise_cons.2 ⟨fun d hd => ?_, ih h.2⟩
        rcases mem_putCell hd with hd | rfl
        · exact h.1 d hd
        · show c.1 < a
          omega

/-! ### One byte -/

@[simp] theorem Memory.write_draw (m : Memory) (a : Nat) (v : Byte) : (m.write a v).draw = m.draw := rfl

@[simp] theorem Memory.read_write_same (m : Memory) (a : Nat) (v : Byte) : (m.write a v).read a = v := by
  simp [Memory.read, Memory.write, findCell_putCell_same]

theorem Memory.read_write_other (m : Memory) (a b : Nat) (v : Byte) (h : b ≠ a) : (m.write a v).read b = m.read b := by
  simp [Memory.read, Memory.write, findCell_putCell_other _ _ _ _ h]

theorem Memory.write_wf {m : Memory} (a : Nat) (v : Byte) (h : m.wf) : (m.write a v).wf := putCell_rising a v h

theorem Memory.write_within {m : Memory} {size : Nat} (a : Nat) (v : Byte) (h : m.within size) (ha : a < size) :
    (m.write a v).within size := by
  refine ⟨Memory.write_wf a v h.1, fun c hc => ?_⟩
  rcases mem_putCell hc with hc | rfl
  · exact h.2 c hc
  · exact ha

theorem Memory.drawn_within (d size : Nat) : (Memory.drawn d).within size := by
  simp [Memory.drawn, Memory.within, Memory.wf]

@[simp] theorem Memory.read_drawn (d a : Nat) : (Memory.drawn d).read a = Config.drawnByte d a := rfl

/-! ### Runs of bytes -/

@[simp] theorem Memory.readN_length (m : Memory) (a n : Nat) : (m.readN a n).length = n := by
  induction n generalizing a with
  | zero => rfl
  | succ n ih => simp [Memory.readN, ih]

/-- Byte j of a run is the byte at the j-th address. -/
theorem Memory.readN_getElem (m : Memory) (a n j : Nat) (h : j < (m.readN a n).length) :
    (m.readN a n)[j] = m.read (a + j) := by
  induction n generalizing a j with
  | zero => simp [Memory.readN] at h
  | succ n ih =>
    cases j with
    | zero => rfl
    | succ j =>
      simp only [Memory.readN, List.getElem_cons_succ]
      rw [ih]
      congr 1
      omega

/-- Two runs agree where their bytes do. -/
theorem Memory.readN_congr {m m' : Memory} {a n : Nat} (h : ∀ j < n, m.read (a + j) = m'.read (a + j)) :
    m.readN a n = m'.readN a n := by
  apply List.ext_getElem (by simp)
  intro j h1 h2
  rw [Memory.readN_getElem, Memory.readN_getElem]
  exact h j (by simpa using h1)

/-- A run is its first part and the rest. -/
theorem Memory.readN_append (m : Memory) (a n k : Nat) : m.readN a (n + k) = m.readN a n ++ m.readN (a + n) k := by
  induction n generalizing a with
  | zero => simp [Memory.readN]
  | succ n ih =>
    rw [Nat.add_right_comm]
    simp only [Memory.readN, List.cons_append, ih]
    congr 3
    omega

@[simp] theorem Memory.writeN_draw (m : Memory) (a : Nat) (bs : List Byte) : (m.writeN a bs).draw = m.draw := by
  induction bs generalizing m a with
  | nil => rfl
  | cons b bs ih => simp [Memory.writeN, ih]

/-- A run written leaves every byte outside it alone. -/
theorem Memory.read_writeN_other (m : Memory) (a b : Nat) (bs : List Byte) (h : b < a ∨ a + bs.length ≤ b) :
    (m.writeN a bs).read b = m.read b := by
  induction bs generalizing m a with
  | nil => rfl
  | cons x bs ih =>
    simp only [List.length_cons] at h
    rw [Memory.writeN, ih _ _ (by omega), Memory.read_write_other _ _ _ _ (by omega)]

/-- A run written reads back byte by byte. -/
theorem Memory.read_writeN (m : Memory) (a j : Nat) (bs : List Byte) (h : j < bs.length) :
    (m.writeN a bs).read (a + j) = bs[j] := by
  induction bs generalizing m a j with
  | nil => simp at h
  | cons x bs ih =>
    cases j with
    | zero =>
      rw [Memory.writeN, Memory.read_writeN_other _ _ _ _ (by omega)]
      simp
    | succ j =>
      have e : a + (j + 1) = a + 1 + j := by omega
      rw [Memory.writeN, e, ih _ _ _ (by simpa using h)]
      simp

/-- A run written reads back whole. -/
theorem Memory.readN_writeN (m : Memory) (a : Nat) (bs : List Byte) : (m.writeN a bs).readN a bs.length = bs := by
  apply List.ext_getElem (by simp)
  intro j h1 h2
  rw [Memory.readN_getElem, Memory.read_writeN _ _ _ _ h2]

theorem Memory.writeN_wf {m : Memory} (a : Nat) (bs : List Byte) (h : m.wf) : (m.writeN a bs).wf := by
  induction bs generalizing m a with
  | nil => exact h
  | cons b bs ih => exact ih _ (Memory.write_wf a b h)

theorem Memory.writeN_within {m : Memory} {size : Nat} (a : Nat) (bs : List Byte) (h : m.within size)
    (ha : a + bs.length ≤ size) : (m.writeN a bs).within size := by
  induction bs generalizing m a with
  | nil => exact h
  | cons b bs ih =>
    simp only [List.length_cons] at ha
    exact ih _ (Memory.write_within a b h (by omega)) (by omega)

end Sys2Proof.Machine
end

