-- ==== Sys2Proof/Laws/State.lean ====
section
/-! SUPPORT. One lemma per field per update of the state, true by rfl, so that no later proof unfolds a record update. -/

namespace Sys2Proof.Machine

variable (s : State)

/-! ### respond -/

@[simp] theorem State.respond_params (st : Status) (data : Word32) : (s.respond st data).params = s.params := rfl
@[simp] theorem State.respond_cfg (st : Status) (data : Word32) : (s.respond st data).cfg = s.cfg := rfl
@[simp] theorem State.respond_gate (st : Status) (data : Word32) : (s.respond st data).gate = s.gate := rfl
@[simp] theorem State.respond_fault (st : Status) (data : Word32) : (s.respond st data).fault = s.fault := rfl
@[simp] theorem State.respond_bufs (st : Status) (data : Word32) : (s.respond st data).bufs = s.bufs := rfl
@[simp] theorem State.respond_ctxs (st : Status) (data : Word32) : (s.respond st data).ctxs = s.ctxs := rfl
@[simp] theorem State.respond_busyTags (st : Status) (data : Word32) : (s.respond st data).busyTags = s.busyTags := rfl
@[simp] theorem State.respond_txMem (st : Status) (data : Word32) : (s.respond st data).txMem = s.txMem := rfl
@[simp] theorem State.respond_tx (st : Status) (data : Word32) : (s.respond st data).tx = s.tx := rfl
@[simp] theorem State.respond_events (st : Status) (data : Word32) : (s.respond st data).events = s.events := rfl
@[simp] theorem State.respond_response (st : Status) (data : Word32) : (s.respond st data).response = some ⟨st, data⟩ := rfl
@[simp] theorem State.respond_draws (st : Status) (data : Word32) : (s.respond st data).draws = s.draws := rfl
@[simp] theorem State.respond_inputs (st : Status) (data : Word32) : (s.respond st data).inputs = s.inputs := rfl

/-! ### emit -/

@[simp] theorem State.emit_params (e : Event) : (s.emit e).params = s.params := rfl
@[simp] theorem State.emit_cfg (e : Event) : (s.emit e).cfg = s.cfg := rfl
@[simp] theorem State.emit_gate (e : Event) : (s.emit e).gate = s.gate := rfl
@[simp] theorem State.emit_fault (e : Event) : (s.emit e).fault = s.fault := rfl
@[simp] theorem State.emit_bufs (e : Event) : (s.emit e).bufs = s.bufs := rfl
@[simp] theorem State.emit_ctxs (e : Event) : (s.emit e).ctxs = s.ctxs := rfl
@[simp] theorem State.emit_busyTags (e : Event) : (s.emit e).busyTags = s.busyTags := rfl
@[simp] theorem State.emit_txMem (e : Event) : (s.emit e).txMem = s.txMem := rfl
@[simp] theorem State.emit_tx (e : Event) : (s.emit e).tx = s.tx := rfl
@[simp] theorem State.emit_events (e : Event) : (s.emit e).events = s.events ++ [e] := rfl
@[simp] theorem State.emit_response (e : Event) : (s.emit e).response = s.response := rfl
@[simp] theorem State.emit_draws (e : Event) : (s.emit e).draws = s.draws := rfl
@[simp] theorem State.emit_inputs (e : Event) : (s.emit e).inputs = s.inputs := rfl

/-! ### raise -/

@[simp] theorem State.raise_params (op : Byte) (c : Cause) (info : Byte) : (s.raise op c info).params = s.params := rfl
@[simp] theorem State.raise_cfg (op : Byte) (c : Cause) (info : Byte) : (s.raise op c info).cfg = s.cfg := rfl
@[simp] theorem State.raise_gate (op : Byte) (c : Cause) (info : Byte) : (s.raise op c info).gate = s.gate := rfl
@[simp] theorem State.raise_fault (op : Byte) (c : Cause) (info : Byte) : (s.raise op c info).fault = ⟨true, c, op, info⟩ := rfl
@[simp] theorem State.raise_bufs (op : Byte) (c : Cause) (info : Byte) : (s.raise op c info).bufs = s.bufs := rfl
@[simp] theorem State.raise_ctxs (op : Byte) (c : Cause) (info : Byte) : (s.raise op c info).ctxs = s.ctxs := rfl
@[simp] theorem State.raise_busyTags (op : Byte) (c : Cause) (info : Byte) : (s.raise op c info).busyTags = s.busyTags := rfl
@[simp] theorem State.raise_txMem (op : Byte) (c : Cause) (info : Byte) : (s.raise op c info).txMem = s.txMem := rfl
@[simp] theorem State.raise_tx (op : Byte) (c : Cause) (info : Byte) : (s.raise op c info).tx = s.tx := rfl
@[simp] theorem State.raise_events (op : Byte) (c : Cause) (info : Byte) : (s.raise op c info).events = s.events := rfl
@[simp] theorem State.raise_response (op : Byte) (c : Cause) (info : Byte) : (s.raise op c info).response = some ⟨.fault, 0#32⟩ := rfl
@[simp] theorem State.raise_draws (op : Byte) (c : Cause) (info : Byte) : (s.raise op c info).draws = s.draws := rfl
@[simp] theorem State.raise_inputs (op : Byte) (c : Cause) (info : Byte) : (s.raise op c info).inputs = s.inputs := rfl

/-! ### setBuf -/

@[simp] theorem State.setBuf_params (h : Nat) (b : Buffer) : (s.setBuf h b).params = s.params := rfl
@[simp] theorem State.setBuf_cfg (h : Nat) (b : Buffer) : (s.setBuf h b).cfg = s.cfg := rfl
@[simp] theorem State.setBuf_gate (h : Nat) (b : Buffer) : (s.setBuf h b).gate = s.gate := rfl
@[simp] theorem State.setBuf_fault (h : Nat) (b : Buffer) : (s.setBuf h b).fault = s.fault := rfl
@[simp] theorem State.setBuf_bufs (h : Nat) (b : Buffer) : (s.setBuf h b).bufs = s.bufs.set h b := rfl
@[simp] theorem State.setBuf_ctxs (h : Nat) (b : Buffer) : (s.setBuf h b).ctxs = s.ctxs := rfl
@[simp] theorem State.setBuf_busyTags (h : Nat) (b : Buffer) : (s.setBuf h b).busyTags = s.busyTags := rfl
@[simp] theorem State.setBuf_txMem (h : Nat) (b : Buffer) : (s.setBuf h b).txMem = s.txMem := rfl
@[simp] theorem State.setBuf_tx (h : Nat) (b : Buffer) : (s.setBuf h b).tx = s.tx := rfl
@[simp] theorem State.setBuf_events (h : Nat) (b : Buffer) : (s.setBuf h b).events = s.events := rfl
@[simp] theorem State.setBuf_response (h : Nat) (b : Buffer) : (s.setBuf h b).response = s.response := rfl
@[simp] theorem State.setBuf_draws (h : Nat) (b : Buffer) : (s.setBuf h b).draws = s.draws := rfl
@[simp] theorem State.setBuf_inputs (h : Nat) (b : Buffer) : (s.setBuf h b).inputs = s.inputs := rfl

/-! ### allocBuffer -/

@[simp] theorem State.allocBuffer_params (h : Nat) (o : Owner) (plen : Nat) : (s.allocBuffer h o plen).params = s.params := rfl
@[simp] theorem State.allocBuffer_cfg (h : Nat) (o : Owner) (plen : Nat) : (s.allocBuffer h o plen).cfg = s.cfg := rfl
@[simp] theorem State.allocBuffer_gate (h : Nat) (o : Owner) (plen : Nat) : (s.allocBuffer h o plen).gate = s.gate := rfl
@[simp] theorem State.allocBuffer_fault (h : Nat) (o : Owner) (plen : Nat) : (s.allocBuffer h o plen).fault = s.fault := rfl
@[simp] theorem State.allocBuffer_bufs (h : Nat) (o : Owner) (plen : Nat) : (s.allocBuffer h o plen).bufs = 
    s.bufs.set h ⟨true, o, s.params.headroom, s.params.headroom,
      s.params.headroom + Config.hdrLen + plen, Memory.drawn s.draws⟩ := rfl
@[simp] theorem State.allocBuffer_ctxs (h : Nat) (o : Owner) (plen : Nat) : (s.allocBuffer h o plen).ctxs = s.ctxs := rfl
@[simp] theorem State.allocBuffer_busyTags (h : Nat) (o : Owner) (plen : Nat) : (s.allocBuffer h o plen).busyTags = s.busyTags := rfl
@[simp] theorem State.allocBuffer_txMem (h : Nat) (o : Owner) (plen : Nat) : (s.allocBuffer h o plen).txMem = s.txMem := rfl
@[simp] theorem State.allocBuffer_tx (h : Nat) (o : Owner) (plen : Nat) : (s.allocBuffer h o plen).tx = s.tx := rfl
@[simp] theorem State.allocBuffer_events (h : Nat) (o : Owner) (plen : Nat) : (s.allocBuffer h o plen).events = s.events := rfl
@[simp] theorem State.allocBuffer_response (h : Nat) (o : Owner) (plen : Nat) : (s.allocBuffer h o plen).response = s.response := rfl
@[simp] theorem State.allocBuffer_draws (h : Nat) (o : Owner) (plen : Nat) : (s.allocBuffer h o plen).draws = s.draws + 1 := rfl
@[simp] theorem State.allocBuffer_inputs (h : Nat) (o : Owner) (plen : Nat) : (s.allocBuffer h o plen).inputs = s.inputs := rfl

/-! ### takeTag -/

@[simp] theorem State.takeTag_params (d : Byte) (t : BitVec 3) : (s.takeTag d t).params = s.params := rfl
@[simp] theorem State.takeTag_cfg (d : Byte) (t : BitVec 3) : (s.takeTag d t).cfg = s.cfg := rfl
@[simp] theorem State.takeTag_gate (d : Byte) (t : BitVec 3) : (s.takeTag d t).gate = s.gate := rfl
@[simp] theorem State.takeTag_fault (d : Byte) (t : BitVec 3) : (s.takeTag d t).fault = s.fault := rfl
@[simp] theorem State.takeTag_bufs (d : Byte) (t : BitVec 3) : (s.takeTag d t).bufs = s.bufs := rfl
@[simp] theorem State.takeTag_ctxs (d : Byte) (t : BitVec 3) : (s.takeTag d t).ctxs = s.ctxs := rfl
@[simp] theorem State.takeTag_busyTags (d : Byte) (t : BitVec 3) : (s.takeTag d t).busyTags = insertRising (tagKey d t) s.busyTags := rfl
@[simp] theorem State.takeTag_txMem (d : Byte) (t : BitVec 3) : (s.takeTag d t).txMem = s.txMem := rfl
@[simp] theorem State.takeTag_tx (d : Byte) (t : BitVec 3) : (s.takeTag d t).tx = s.tx := rfl
@[simp] theorem State.takeTag_events (d : Byte) (t : BitVec 3) : (s.takeTag d t).events = s.events := rfl
@[simp] theorem State.takeTag_response (d : Byte) (t : BitVec 3) : (s.takeTag d t).response = s.response := rfl
@[simp] theorem State.takeTag_draws (d : Byte) (t : BitVec 3) : (s.takeTag d t).draws = s.draws := rfl
@[simp] theorem State.takeTag_inputs (d : Byte) (t : BitVec 3) : (s.takeTag d t).inputs = s.inputs := rfl

/-! ### releaseTag -/

@[simp] theorem State.releaseTag_params (d : Byte) (t : BitVec 3) : (s.releaseTag d t).params = s.params := rfl
@[simp] theorem State.releaseTag_cfg (d : Byte) (t : BitVec 3) : (s.releaseTag d t).cfg = s.cfg := rfl
@[simp] theorem State.releaseTag_gate (d : Byte) (t : BitVec 3) : (s.releaseTag d t).gate = s.gate := rfl
@[simp] theorem State.releaseTag_fault (d : Byte) (t : BitVec 3) : (s.releaseTag d t).fault = s.fault := rfl
@[simp] theorem State.releaseTag_bufs (d : Byte) (t : BitVec 3) : (s.releaseTag d t).bufs = s.bufs := rfl
@[simp] theorem State.releaseTag_ctxs (d : Byte) (t : BitVec 3) : (s.releaseTag d t).ctxs = s.ctxs := rfl
@[simp] theorem State.releaseTag_busyTags (d : Byte) (t : BitVec 3) : (s.releaseTag d t).busyTags = s.busyTags.filter (fun k => k != tagKey d t) := rfl
@[simp] theorem State.releaseTag_txMem (d : Byte) (t : BitVec 3) : (s.releaseTag d t).txMem = s.txMem := rfl
@[simp] theorem State.releaseTag_tx (d : Byte) (t : BitVec 3) : (s.releaseTag d t).tx = s.tx := rfl
@[simp] theorem State.releaseTag_events (d : Byte) (t : BitVec 3) : (s.releaseTag d t).events = s.events := rfl
@[simp] theorem State.releaseTag_response (d : Byte) (t : BitVec 3) : (s.releaseTag d t).response = s.response := rfl
@[simp] theorem State.releaseTag_draws (d : Byte) (t : BitVec 3) : (s.releaseTag d t).draws = s.draws := rfl
@[simp] theorem State.releaseTag_inputs (d : Byte) (t : BitVec 3) : (s.releaseTag d t).inputs = s.inputs := rfl

/-! ### setCtx -/

@[simp] theorem State.setCtx_params (k : Nat) (c : Context) : (s.setCtx k c).params = s.params := rfl
@[simp] theorem State.setCtx_cfg (k : Nat) (c : Context) : (s.setCtx k c).cfg = s.cfg := rfl
@[simp] theorem State.setCtx_gate (k : Nat) (c : Context) : (s.setCtx k c).gate = s.gate := rfl
@[simp] theorem State.setCtx_fault (k : Nat) (c : Context) : (s.setCtx k c).fault = s.fault := rfl
@[simp] theorem State.setCtx_bufs (k : Nat) (c : Context) : (s.setCtx k c).bufs = s.bufs := rfl
@[simp] theorem State.setCtx_ctxs (k : Nat) (c : Context) : (s.setCtx k c).ctxs = s.ctxs.set k c := rfl
@[simp] theorem State.setCtx_busyTags (k : Nat) (c : Context) : (s.setCtx k c).busyTags = s.busyTags := rfl
@[simp] theorem State.setCtx_txMem (k : Nat) (c : Context) : (s.setCtx k c).txMem = s.txMem := rfl
@[simp] theorem State.setCtx_tx (k : Nat) (c : Context) : (s.setCtx k c).tx = s.tx := rfl
@[simp] theorem State.setCtx_events (k : Nat) (c : Context) : (s.setCtx k c).events = s.events := rfl
@[simp] theorem State.setCtx_response (k : Nat) (c : Context) : (s.setCtx k c).response = s.response := rfl
@[simp] theorem State.setCtx_draws (k : Nat) (c : Context) : (s.setCtx k c).draws = s.draws := rfl
@[simp] theorem State.setCtx_inputs (k : Nat) (c : Context) : (s.setCtx k c).inputs = s.inputs := rfl

/-! ### destroyCtx -/

@[simp] theorem State.destroyCtx_params (k : Nat) : (s.destroyCtx k).params = s.params := rfl
@[simp] theorem State.destroyCtx_cfg (k : Nat) : (s.destroyCtx k).cfg = s.cfg := rfl
@[simp] theorem State.destroyCtx_gate (k : Nat) : (s.destroyCtx k).gate = s.gate := rfl
@[simp] theorem State.destroyCtx_fault (k : Nat) : (s.destroyCtx k).fault = s.fault := rfl
@[simp] theorem State.destroyCtx_bufs (k : Nat) : (s.destroyCtx k).bufs = s.bufs := rfl
@[simp] theorem State.destroyCtx_ctxs (k : Nat) : (s.destroyCtx k).ctxs = s.ctxs.set k { s.ctx k with valid := false } := rfl
@[simp] theorem State.destroyCtx_busyTags (k : Nat) : (s.destroyCtx k).busyTags = s.busyTags := rfl
@[simp] theorem State.destroyCtx_txMem (k : Nat) : (s.destroyCtx k).txMem = s.txMem := rfl
@[simp] theorem State.destroyCtx_tx (k : Nat) : (s.destroyCtx k).tx = s.tx := rfl
@[simp] theorem State.destroyCtx_events (k : Nat) : (s.destroyCtx k).events = s.events := rfl
@[simp] theorem State.destroyCtx_response (k : Nat) : (s.destroyCtx k).response = s.response := rfl
@[simp] theorem State.destroyCtx_draws (k : Nat) : (s.destroyCtx k).draws = s.draws := rfl
@[simp] theorem State.destroyCtx_inputs (k : Nat) : (s.destroyCtx k).inputs = s.inputs := rfl

/-! ### startTx -/

@[simp] theorem State.startTx_params (d : Byte) (t : BitVec 3) (al : Bool) (len : Nat) : (s.startTx d t al len).params = s.params := rfl
@[simp] theorem State.startTx_cfg (d : Byte) (t : BitVec 3) (al : Bool) (len : Nat) : (s.startTx d t al len).cfg = s.cfg := rfl
@[simp] theorem State.startTx_gate (d : Byte) (t : BitVec 3) (al : Bool) (len : Nat) : (s.startTx d t al len).gate = s.gate := rfl
@[simp] theorem State.startTx_fault (d : Byte) (t : BitVec 3) (al : Bool) (len : Nat) : (s.startTx d t al len).fault = s.fault := rfl
@[simp] theorem State.startTx_bufs (d : Byte) (t : BitVec 3) (al : Bool) (len : Nat) : (s.startTx d t al len).bufs = s.bufs := rfl
@[simp] theorem State.startTx_ctxs (d : Byte) (t : BitVec 3) (al : Bool) (len : Nat) : (s.startTx d t al len).ctxs = s.ctxs := rfl
@[simp] theorem State.startTx_busyTags (d : Byte) (t : BitVec 3) (al : Bool) (len : Nat) : (s.startTx d t al len).busyTags = s.busyTags := rfl
@[simp] theorem State.startTx_txMem (d : Byte) (t : BitVec 3) (al : Bool) (len : Nat) : (s.startTx d t al len).txMem = s.txMem := rfl
@[simp] theorem State.startTx_tx (d : Byte) (t : BitVec 3) (al : Bool) (len : Nat) : (s.startTx d t al len).tx = ⟨.next, d, t, al, len, pktCount len, 0, 0, s.tx.code⟩ := rfl
@[simp] theorem State.startTx_events (d : Byte) (t : BitVec 3) (al : Bool) (len : Nat) : (s.startTx d t al len).events = s.events := rfl
@[simp] theorem State.startTx_response (d : Byte) (t : BitVec 3) (al : Bool) (len : Nat) : (s.startTx d t al len).response = s.response := rfl
@[simp] theorem State.startTx_draws (d : Byte) (t : BitVec 3) (al : Bool) (len : Nat) : (s.startTx d t al len).draws = s.draws := rfl
@[simp] theorem State.startTx_inputs (d : Byte) (t : BitVec 3) (al : Bool) (len : Nat) : (s.startTx d t al len).inputs = s.inputs := rfl

/-! ### begin -/

@[simp] theorem State.begin_params (rest : List Input) : (s.begin rest).params = s.params := rfl
@[simp] theorem State.begin_cfg (rest : List Input) : (s.begin rest).cfg = s.cfg := rfl
@[simp] theorem State.begin_gate (rest : List Input) : (s.begin rest).gate = s.gate := rfl
@[simp] theorem State.begin_fault (rest : List Input) : (s.begin rest).fault = s.fault := rfl
@[simp] theorem State.begin_bufs (rest : List Input) : (s.begin rest).bufs = s.bufs := rfl
@[simp] theorem State.begin_ctxs (rest : List Input) : (s.begin rest).ctxs = s.ctxs := rfl
@[simp] theorem State.begin_busyTags (rest : List Input) : (s.begin rest).busyTags = s.busyTags := rfl
@[simp] theorem State.begin_txMem (rest : List Input) : (s.begin rest).txMem = s.txMem := rfl
@[simp] theorem State.begin_tx (rest : List Input) : (s.begin rest).tx = s.tx := rfl
@[simp] theorem State.begin_events (rest : List Input) : (s.begin rest).events = s.events := rfl
@[simp] theorem State.begin_response (rest : List Input) : (s.begin rest).response = none := rfl
@[simp] theorem State.begin_draws (rest : List Input) : (s.begin rest).draws = s.draws := rfl
@[simp] theorem State.begin_inputs (rest : List Input) : (s.begin rest).inputs = rest := rfl

/-! ### offer -/

@[simp] theorem State.offer_params (words : List Word64) : (s.offer words).params = s.params := rfl
@[simp] theorem State.offer_cfg (words : List Word64) : (s.offer words).cfg = s.cfg := rfl
@[simp] theorem State.offer_gate (words : List Word64) : (s.offer words).gate = s.gate := rfl
@[simp] theorem State.offer_fault (words : List Word64) : (s.offer words).fault = s.fault := rfl
@[simp] theorem State.offer_bufs (words : List Word64) : (s.offer words).bufs = s.bufs := rfl
@[simp] theorem State.offer_ctxs (words : List Word64) : (s.offer words).ctxs = s.ctxs := rfl
@[simp] theorem State.offer_busyTags (words : List Word64) : (s.offer words).busyTags = s.busyTags := rfl
@[simp] theorem State.offer_txMem (words : List Word64) : (s.offer words).txMem = s.txMem := rfl
@[simp] theorem State.offer_tx (words : List Word64) : (s.offer words).tx = s.tx := rfl
@[simp] theorem State.offer_events (words : List Word64) : (s.offer words).events = s.events := rfl
@[simp] theorem State.offer_response (words : List Word64) : (s.offer words).response = s.response := rfl
@[simp] theorem State.offer_draws (words : List Word64) : (s.offer words).draws = s.draws := rfl
@[simp] theorem State.offer_inputs (words : List Word64) : (s.offer words).inputs = .command words :: s.inputs := rfl

/-! ### dropPacket -/

@[simp] theorem dropPacket_params (r : Status) (src : Byte) (tag : BitVec 3) : (dropPacket s r src tag).params = s.params := rfl
@[simp] theorem dropPacket_cfg (r : Status) (src : Byte) (tag : BitVec 3) : (dropPacket s r src tag).cfg = s.cfg := rfl
@[simp] theorem dropPacket_gate (r : Status) (src : Byte) (tag : BitVec 3) : (dropPacket s r src tag).gate = s.gate := rfl
@[simp] theorem dropPacket_fault (r : Status) (src : Byte) (tag : BitVec 3) : (dropPacket s r src tag).fault = s.fault := rfl
@[simp] theorem dropPacket_bufs (r : Status) (src : Byte) (tag : BitVec 3) : (dropPacket s r src tag).bufs = s.bufs := rfl
@[simp] theorem dropPacket_ctxs (r : Status) (src : Byte) (tag : BitVec 3) : (dropPacket s r src tag).ctxs = s.ctxs := rfl
@[simp] theorem dropPacket_busyTags (r : Status) (src : Byte) (tag : BitVec 3) : (dropPacket s r src tag).busyTags = s.busyTags := rfl
@[simp] theorem dropPacket_txMem (r : Status) (src : Byte) (tag : BitVec 3) : (dropPacket s r src tag).txMem = s.txMem := rfl
@[simp] theorem dropPacket_tx (r : Status) (src : Byte) (tag : BitVec 3) : (dropPacket s r src tag).tx = s.tx := rfl
@[simp] theorem dropPacket_events (r : Status) (src : Byte) (tag : BitVec 3) : (dropPacket s r src tag).events = s.events ++ [.log r src tag] := rfl
@[simp] theorem dropPacket_response (r : Status) (src : Byte) (tag : BitVec 3) : (dropPacket s r src tag).response = some ⟨r, 0#32⟩ := rfl
@[simp] theorem dropPacket_draws (r : Status) (src : Byte) (tag : BitVec 3) : (dropPacket s r src tag).draws = s.draws := rfl
@[simp] theorem dropPacket_inputs (r : Status) (src : Byte) (tag : BitVec 3) : (dropPacket s r src tag).inputs = s.inputs := rfl

/-! ### deliverMessage -/

@[simp] theorem deliverMessage_params (src : Byte) (bs : List Byte) : (deliverMessage s src bs).params = s.params := rfl
@[simp] theorem deliverMessage_cfg (src : Byte) (bs : List Byte) : (deliverMessage s src bs).cfg = s.cfg := rfl
@[simp] theorem deliverMessage_gate (src : Byte) (bs : List Byte) : (deliverMessage s src bs).gate = s.gate := rfl
@[simp] theorem deliverMessage_fault (src : Byte) (bs : List Byte) : (deliverMessage s src bs).fault = s.fault := rfl
@[simp] theorem deliverMessage_bufs (src : Byte) (bs : List Byte) : (deliverMessage s src bs).bufs = s.bufs := rfl
@[simp] theorem deliverMessage_ctxs (src : Byte) (bs : List Byte) : (deliverMessage s src bs).ctxs = s.ctxs := rfl
@[simp] theorem deliverMessage_busyTags (src : Byte) (bs : List Byte) : (deliverMessage s src bs).busyTags = s.busyTags := rfl
@[simp] theorem deliverMessage_txMem (src : Byte) (bs : List Byte) : (deliverMessage s src bs).txMem = s.txMem := rfl
@[simp] theorem deliverMessage_tx (src : Byte) (bs : List Byte) : (deliverMessage s src bs).tx = s.tx := rfl
@[simp] theorem deliverMessage_events (src : Byte) (bs : List Byte) : (deliverMessage s src bs).events = s.events ++ [.deliver src bs.length bs] := rfl
@[simp] theorem deliverMessage_response (src : Byte) (bs : List Byte) : (deliverMessage s src bs).response = some ⟨.rxDelivered, BitVec.ofNat 32 bs.length⟩ := rfl
@[simp] theorem deliverMessage_draws (src : Byte) (bs : List Byte) : (deliverMessage s src bs).draws = s.draws := rfl
@[simp] theorem deliverMessage_inputs (src : Byte) (bs : List Byte) : (deliverMessage s src bs).inputs = s.inputs := rfl

/-! ### writeGate -/

@[simp] theorem writeGate_params (val : Word32) : (writeGate val s).params = s.params := rfl
@[simp] theorem writeGate_cfg (val : Word32) : (writeGate val s).cfg = s.cfg := rfl
@[simp] theorem writeGate_gate (val : Word32) : (writeGate val s).gate = val.getLsbD 0 := rfl
@[simp] theorem writeGate_fault (val : Word32) : (writeGate val s).fault = s.fault := rfl
@[simp] theorem writeGate_bufs (val : Word32) : (writeGate val s).bufs = s.bufs := rfl
@[simp] theorem writeGate_ctxs (val : Word32) : (writeGate val s).ctxs = s.ctxs := rfl
@[simp] theorem writeGate_busyTags (val : Word32) : (writeGate val s).busyTags = s.busyTags := rfl
@[simp] theorem writeGate_txMem (val : Word32) : (writeGate val s).txMem = s.txMem := rfl
@[simp] theorem writeGate_tx (val : Word32) : (writeGate val s).tx = s.tx := rfl
@[simp] theorem writeGate_events (val : Word32) : (writeGate val s).events = s.events := rfl
@[simp] theorem writeGate_response (val : Word32) : (writeGate val s).response = some ⟨.ok, 0#32⟩ := rfl
@[simp] theorem writeGate_draws (val : Word32) : (writeGate val s).draws = s.draws := rfl
@[simp] theorem writeGate_inputs (val : Word32) : (writeGate val s).inputs = s.inputs := rfl

/-! ### resetStep -/

@[simp] theorem resetStep_params : (resetStep s).params = s.params := rfl
@[simp] theorem resetStep_cfg : (resetStep s).cfg = ⟨0x00#8, false, .fail⟩ := rfl
@[simp] theorem resetStep_gate : (resetStep s).gate = true := rfl
@[simp] theorem resetStep_fault : (resetStep s).fault = ⟨false, .noFault, 0x00#8, 0x00#8⟩ := rfl
@[simp] theorem resetStep_bufs : (resetStep s).bufs = 
    (List.range s.params.nbuf).map (fun h => Buffer.afterReset s.params (s.draws + h)) := rfl
@[simp] theorem resetStep_ctxs : (resetStep s).ctxs = 
    (List.range s.params.nctx).map (fun k => Context.afterReset (s.draws + s.params.nbuf + k)) := rfl
@[simp] theorem resetStep_busyTags : (resetStep s).busyTags = [] := rfl
@[simp] theorem resetStep_txMem : (resetStep s).txMem = Memory.drawn (s.draws + s.params.nbuf + s.params.nctx) := rfl
@[simp] theorem resetStep_tx : (resetStep s).tx = TxEngine.afterReset := rfl
@[simp] theorem resetStep_events : (resetStep s).events = s.events ++ [.reset] := rfl
@[simp] theorem resetStep_response : (resetStep s).response = none := rfl
@[simp] theorem resetStep_draws : (resetStep s).draws = s.draws + s.params.nbuf + s.params.nctx + 1 := rfl
@[simp] theorem resetStep_inputs : (resetStep s).inputs = s.inputs := rfl

/-! ### The derived reads, of an update that leaves what they read -/

@[simp] theorem State.respond_nbuf (st : Status) (data : Word32) : (s.respond st data).nbuf = s.nbuf := rfl
@[simp] theorem State.respond_buf (st : Status) (data : Word32) (h : Nat) : (s.respond st data).buf h = s.buf h := rfl
@[simp] theorem State.respond_freeHandle (st : Status) (data : Word32) : (s.respond st data).freeHandle = s.freeHandle := rfl
@[simp] theorem State.respond_freeCount (st : Status) (data : Word32) : (s.respond st data).freeCount = s.freeCount := rfl
@[simp] theorem State.respond_nctx (st : Status) (data : Word32) : (s.respond st data).nctx = s.nctx := rfl
@[simp] theorem State.respond_ctx (st : Status) (data : Word32) (j : Nat) : (s.respond st data).ctx j = s.ctx j := rfl
@[simp] theorem State.respond_freeSlot (st : Status) (data : Word32) : (s.respond st data).freeSlot = s.freeSlot := rfl
@[simp] theorem State.respond_liveContexts (st : Status) (data : Word32) : (s.respond st data).liveContexts = s.liveContexts := rfl
@[simp] theorem State.respond_lookup (st : Status) (data : Word32) (u : Byte) (v : BitVec 3) : (s.respond st data).lookup u v = s.lookup u v := rfl
@[simp] theorem State.respond_tagBusy (st : Status) (data : Word32) (u : Byte) (v : BitVec 3) : (s.respond st data).tagBusy u v = s.tagBusy u v := rfl
@[simp] theorem State.respond_halted (st : Status) (data : Word32) : (s.respond st data).halted = s.halted := rfl
@[simp] theorem State.respond_cap (st : Status) (data : Word32) : (s.respond st data).cap = s.cap := rfl
@[simp] theorem State.emit_nbuf (e : Event) : (s.emit e).nbuf = s.nbuf := rfl
@[simp] theorem State.emit_buf (e : Event) (h : Nat) : (s.emit e).buf h = s.buf h := rfl
@[simp] theorem State.emit_freeHandle (e : Event) : (s.emit e).freeHandle = s.freeHandle := rfl
@[simp] theorem State.emit_freeCount (e : Event) : (s.emit e).freeCount = s.freeCount := rfl
@[simp] theorem State.emit_nctx (e : Event) : (s.emit e).nctx = s.nctx := rfl
@[simp] theorem State.emit_ctx (e : Event) (j : Nat) : (s.emit e).ctx j = s.ctx j := rfl
@[simp] theorem State.emit_freeSlot (e : Event) : (s.emit e).freeSlot = s.freeSlot := rfl
@[simp] theorem State.emit_liveContexts (e : Event) : (s.emit e).liveContexts = s.liveContexts := rfl
@[simp] theorem State.emit_lookup (e : Event) (u : Byte) (v : BitVec 3) : (s.emit e).lookup u v = s.lookup u v := rfl
@[simp] theorem State.emit_tagBusy (e : Event) (u : Byte) (v : BitVec 3) : (s.emit e).tagBusy u v = s.tagBusy u v := rfl
@[simp] theorem State.emit_halted (e : Event) : (s.emit e).halted = s.halted := rfl
@[simp] theorem State.emit_cap (e : Event) : (s.emit e).cap = s.cap := rfl
@[simp] theorem State.raise_nbuf (op : Byte) (c : Cause) (info : Byte) : (s.raise op c info).nbuf = s.nbuf := rfl
@[simp] theorem State.raise_buf (op : Byte) (c : Cause) (info : Byte) (h : Nat) : (s.raise op c info).buf h = s.buf h := rfl
@[simp] theorem State.raise_freeHandle (op : Byte) (c : Cause) (info : Byte) : (s.raise op c info).freeHandle = s.freeHandle := rfl
@[simp] theorem State.raise_freeCount (op : Byte) (c : Cause) (info : Byte) : (s.raise op c info).freeCount = s.freeCount := rfl
@[simp] theorem State.raise_nctx (op : Byte) (c : Cause) (info : Byte) : (s.raise op c info).nctx = s.nctx := rfl
@[simp] theorem State.raise_ctx (op : Byte) (c : Cause) (info : Byte) (j : Nat) : (s.raise op c info).ctx j = s.ctx j := rfl
@[simp] theorem State.raise_freeSlot (op : Byte) (c : Cause) (info : Byte) : (s.raise op c info).freeSlot = s.freeSlot := rfl
@[simp] theorem State.raise_liveContexts (op : Byte) (c : Cause) (info : Byte) : (s.raise op c info).liveContexts = s.liveContexts := rfl
@[simp] theorem State.raise_lookup (op : Byte) (c : Cause) (info : Byte) (u : Byte) (v : BitVec 3) : (s.raise op c info).lookup u v = s.lookup u v := rfl
@[simp] theorem State.raise_tagBusy (op : Byte) (c : Cause) (info : Byte) (u : Byte) (v : BitVec 3) : (s.raise op c info).tagBusy u v = s.tagBusy u v := rfl
@[simp] theorem State.raise_cap (op : Byte) (c : Cause) (info : Byte) : (s.raise op c info).cap = s.cap := rfl
@[simp] theorem State.setBuf_nctx (h : Nat) (b : Buffer) : (s.setBuf h b).nctx = s.nctx := rfl
@[simp] theorem State.setBuf_ctx (h : Nat) (b : Buffer) (j : Nat) : (s.setBuf h b).ctx j = s.ctx j := rfl
@[simp] theorem State.setBuf_freeSlot (h : Nat) (b : Buffer) : (s.setBuf h b).freeSlot = s.freeSlot := rfl
@[simp] theorem State.setBuf_liveContexts (h : Nat) (b : Buffer) : (s.setBuf h b).liveContexts = s.liveContexts := rfl
@[simp] theorem State.setBuf_lookup (h : Nat) (b : Buffer) (u : Byte) (v : BitVec 3) : (s.setBuf h b).lookup u v = s.lookup u v := rfl
@[simp] theorem State.setBuf_tagBusy (h : Nat) (b : Buffer) (u : Byte) (v : BitVec 3) : (s.setBuf h b).tagBusy u v = s.tagBusy u v := rfl
@[simp] theorem State.setBuf_halted (h : Nat) (b : Buffer) : (s.setBuf h b).halted = s.halted := rfl
@[simp] theorem State.setBuf_cap (h : Nat) (b : Buffer) : (s.setBuf h b).cap = s.cap := rfl
@[simp] theorem State.allocBuffer_nctx (h : Nat) (o : Owner) (plen : Nat) : (s.allocBuffer h o plen).nctx = s.nctx := rfl
@[simp] theorem State.allocBuffer_ctx (h : Nat) (o : Owner) (plen : Nat) (j : Nat) : (s.allocBuffer h o plen).ctx j = s.ctx j := rfl
@[simp] theorem State.allocBuffer_freeSlot (h : Nat) (o : Owner) (plen : Nat) : (s.allocBuffer h o plen).freeSlot = s.freeSlot := rfl
@[simp] theorem State.allocBuffer_liveContexts (h : Nat) (o : Owner) (plen : Nat) : (s.allocBuffer h o plen).liveContexts = s.liveContexts := rfl
@[simp] theorem State.allocBuffer_lookup (h : Nat) (o : Owner) (plen : Nat) (u : Byte) (v : BitVec 3) : (s.allocBuffer h o plen).lookup u v = s.lookup u v := rfl
@[simp] theorem State.allocBuffer_tagBusy (h : Nat) (o : Owner) (plen : Nat) (u : Byte) (v : BitVec 3) : (s.allocBuffer h o plen).tagBusy u v = s.tagBusy u v := rfl
@[simp] theorem State.allocBuffer_halted (h : Nat) (o : Owner) (plen : Nat) : (s.allocBuffer h o plen).halted = s.halted := rfl
@[simp] theorem State.allocBuffer_cap (h : Nat) (o : Owner) (plen : Nat) : (s.allocBuffer h o plen).cap = s.cap := rfl
@[simp] theorem State.takeTag_nbuf (d : Byte) (t : BitVec 3) : (s.takeTag d t).nbuf = s.nbuf := rfl
@[simp] theorem State.takeTag_buf (d : Byte) (t : BitVec 3) (h : Nat) : (s.takeTag d t).buf h = s.buf h := rfl
@[simp] theorem State.takeTag_freeHandle (d : Byte) (t : BitVec 3) : (s.takeTag d t).freeHandle = s.freeHandle := rfl
@[simp] theorem State.takeTag_freeCount (d : Byte) (t : BitVec 3) : (s.takeTag d t).freeCount = s.freeCount := rfl
@[simp] theorem State.takeTag_nctx (d : Byte) (t : BitVec 3) : (s.takeTag d t).nctx = s.nctx := rfl
@[simp] theorem State.takeTag_ctx (d : Byte) (t : BitVec 3) (j : Nat) : (s.takeTag d t).ctx j = s.ctx j := rfl
@[simp] theorem State.takeTag_freeSlot (d : Byte) (t : BitVec 3) : (s.takeTag d t).freeSlot = s.freeSlot := rfl
@[simp] theorem State.takeTag_liveContexts (d : Byte) (t : BitVec 3) : (s.takeTag d t).liveContexts = s.liveContexts := rfl
@[simp] theorem State.takeTag_lookup (d : Byte) (t : BitVec 3) (u : Byte) (v : BitVec 3) : (s.takeTag d t).lookup u v = s.lookup u v := rfl
@[simp] theorem State.takeTag_halted (d : Byte) (t : BitVec 3) : (s.takeTag d t).halted = s.halted := rfl
@[simp] theorem State.takeTag_cap (d : Byte) (t : BitVec 3) : (s.takeTag d t).cap = s.cap := rfl
@[simp] theorem State.releaseTag_nbuf (d : Byte) (t : BitVec 3) : (s.releaseTag d t).nbuf = s.nbuf := rfl
@[simp] theorem State.releaseTag_buf (d : Byte) (t : BitVec 3) (h : Nat) : (s.releaseTag d t).buf h = s.buf h := rfl
@[simp] theorem State.releaseTag_freeHandle (d : Byte) (t : BitVec 3) : (s.releaseTag d t).freeHandle = s.freeHandle := rfl
@[simp] theorem State.releaseTag_freeCount (d : Byte) (t : BitVec 3) : (s.releaseTag d t).freeCount = s.freeCount := rfl
@[simp] theorem State.releaseTag_nctx (d : Byte) (t : BitVec 3) : (s.releaseTag d t).nctx = s.nctx := rfl
@[simp] theorem State.releaseTag_ctx (d : Byte) (t : BitVec 3) (j : Nat) : (s.releaseTag d t).ctx j = s.ctx j := rfl
@[simp] theorem State.releaseTag_freeSlot (d : Byte) (t : BitVec 3) : (s.releaseTag d t).freeSlot = s.freeSlot := rfl
@[simp] theorem State.releaseTag_liveContexts (d : Byte) (t : BitVec 3) : (s.releaseTag d t).liveContexts = s.liveContexts := rfl
@[simp] theorem State.releaseTag_lookup (d : Byte) (t : BitVec 3) (u : Byte) (v : BitVec 3) : (s.releaseTag d t).lookup u v = s.lookup u v := rfl
@[simp] theorem State.releaseTag_halted (d : Byte) (t : BitVec 3) : (s.releaseTag d t).halted = s.halted := rfl
@[simp] theorem State.releaseTag_cap (d : Byte) (t : BitVec 3) : (s.releaseTag d t).cap = s.cap := rfl
@[simp] theorem State.setCtx_nbuf (k : Nat) (c : Context) : (s.setCtx k c).nbuf = s.nbuf := rfl
@[simp] theorem State.setCtx_buf (k : Nat) (c : Context) (h : Nat) : (s.setCtx k c).buf h = s.buf h := rfl
@[simp] theorem State.setCtx_freeHandle (k : Nat) (c : Context) : (s.setCtx k c).freeHandle = s.freeHandle := rfl
@[simp] theorem State.setCtx_freeCount (k : Nat) (c : Context) : (s.setCtx k c).freeCount = s.freeCount := rfl
@[simp] theorem State.setCtx_tagBusy (k : Nat) (c : Context) (u : Byte) (v : BitVec 3) : (s.setCtx k c).tagBusy u v = s.tagBusy u v := rfl
@[simp] theorem State.setCtx_halted (k : Nat) (c : Context) : (s.setCtx k c).halted = s.halted := rfl
@[simp] theorem State.setCtx_cap (k : Nat) (c : Context) : (s.setCtx k c).cap = s.cap := rfl
@[simp] theorem State.destroyCtx_nbuf (k : Nat) : (s.destroyCtx k).nbuf = s.nbuf := rfl
@[simp] theorem State.destroyCtx_buf (k : Nat) (h : Nat) : (s.destroyCtx k).buf h = s.buf h := rfl
@[simp] theorem State.destroyCtx_freeHandle (k : Nat) : (s.destroyCtx k).freeHandle = s.freeHandle := rfl
@[simp] theorem State.destroyCtx_freeCount (k : Nat) : (s.destroyCtx k).freeCount = s.freeCount := rfl
@[simp] theorem State.destroyCtx_tagBusy (k : Nat) (u : Byte) (v : BitVec 3) : (s.destroyCtx k).tagBusy u v = s.tagBusy u v := rfl
@[simp] theorem State.destroyCtx_halted (k : Nat) : (s.destroyCtx k).halted = s.halted := rfl
@[simp] theorem State.destroyCtx_cap (k : Nat) : (s.destroyCtx k).cap = s.cap := rfl
@[simp] theorem State.startTx_nbuf (d : Byte) (t : BitVec 3) (al : Bool) (len : Nat) : (s.startTx d t al len).nbuf = s.nbuf := rfl
@[simp] theorem State.startTx_buf (d : Byte) (t : BitVec 3) (al : Bool) (len : Nat) (h : Nat) : (s.startTx d t al len).buf h = s.buf h := rfl
@[simp] theorem State.startTx_freeHandle (d : Byte) (t : BitVec 3) (al : Bool) (len : Nat) : (s.startTx d t al len).freeHandle = s.freeHandle := rfl
@[simp] theorem State.startTx_freeCount (d : Byte) (t : BitVec 3) (al : Bool) (len : Nat) : (s.startTx d t al len).freeCount = s.freeCount := rfl
@[simp] theorem State.startTx_nctx (d : Byte) (t : BitVec 3) (al : Bool) (len : Nat) : (s.startTx d t al len).nctx = s.nctx := rfl
@[simp] theorem State.startTx_ctx (d : Byte) (t : BitVec 3) (al : Bool) (len : Nat) (j : Nat) : (s.startTx d t al len).ctx j = s.ctx j := rfl
@[simp] theorem State.startTx_freeSlot (d : Byte) (t : BitVec 3) (al : Bool) (len : Nat) : (s.startTx d t al len).freeSlot = s.freeSlot := rfl
@[simp] theorem State.startTx_liveContexts (d : Byte) (t : BitVec 3) (al : Bool) (len : Nat) : (s.startTx d t al len).liveContexts = s.liveContexts := rfl
@[simp] theorem State.startTx_lookup (d : Byte) (t : BitVec 3) (al : Bool) (len : Nat) (u : Byte) (v : BitVec 3) : (s.startTx d t al len).lookup u v = s.lookup u v := rfl
@[simp] theorem State.startTx_tagBusy (d : Byte) (t : BitVec 3) (al : Bool) (len : Nat) (u : Byte) (v : BitVec 3) : (s.startTx d t al len).tagBusy u v = s.tagBusy u v := rfl
@[simp] theorem State.startTx_halted (d : Byte) (t : BitVec 3) (al : Bool) (len : Nat) : (s.startTx d t al len).halted = s.halted := rfl
@[simp] theorem State.startTx_cap (d : Byte) (t : BitVec 3) (al : Bool) (len : Nat) : (s.startTx d t al len).cap = s.cap := rfl
@[simp] theorem State.begin_nbuf (rest : List Input) : (s.begin rest).nbuf = s.nbuf := rfl
@[simp] theorem State.begin_buf (rest : List Input) (h : Nat) : (s.begin rest).buf h = s.buf h := rfl
@[simp] theorem State.begin_freeHandle (rest : List Input) : (s.begin rest).freeHandle = s.freeHandle := rfl
@[simp] theorem State.begin_freeCount (rest : List Input) : (s.begin rest).freeCount = s.freeCount := rfl
@[simp] theorem State.begin_nctx (rest : List Input) : (s.begin rest).nctx = s.nctx := rfl
@[simp] theorem State.begin_ctx (rest : List Input) (j : Nat) : (s.begin rest).ctx j = s.ctx j := rfl
@[simp] theorem State.begin_freeSlot (rest : List Input) : (s.begin rest).freeSlot = s.freeSlot := rfl
@[simp] theorem State.begin_liveContexts (rest : List Input) : (s.begin rest).liveContexts = s.liveContexts := rfl
@[simp] theorem State.begin_lookup (rest : List Input) (u : Byte) (v : BitVec 3) : (s.begin rest).lookup u v = s.lookup u v := rfl
@[simp] theorem State.begin_tagBusy (rest : List Input) (u : Byte) (v : BitVec 3) : (s.begin rest).tagBusy u v = s.tagBusy u v := rfl
@[simp] theorem State.begin_halted (rest : List Input) : (s.begin rest).halted = s.halted := rfl
@[simp] theorem State.begin_cap (rest : List Input) : (s.begin rest).cap = s.cap := rfl
@[simp] theorem State.offer_nbuf (words : List Word64) : (s.offer words).nbuf = s.nbuf := rfl
@[simp] theorem State.offer_buf (words : List Word64) (h : Nat) : (s.offer words).buf h = s.buf h := rfl
@[simp] theorem State.offer_freeHandle (words : List Word64) : (s.offer words).freeHandle = s.freeHandle := rfl
@[simp] theorem State.offer_freeCount (words : List Word64) : (s.offer words).freeCount = s.freeCount := rfl
@[simp] theorem State.offer_nctx (words : List Word64) : (s.offer words).nctx = s.nctx := rfl
@[simp] theorem State.offer_ctx (words : List Word64) (j : Nat) : (s.offer words).ctx j = s.ctx j := rfl
@[simp] theorem State.offer_freeSlot (words : List Word64) : (s.offer words).freeSlot = s.freeSlot := rfl
@[simp] theorem State.offer_liveContexts (words : List Word64) : (s.offer words).liveContexts = s.liveContexts := rfl
@[simp] theorem State.offer_lookup (words : List Word64) (u : Byte) (v : BitVec 3) : (s.offer words).lookup u v = s.lookup u v := rfl
@[simp] theorem State.offer_tagBusy (words : List Word64) (u : Byte) (v : BitVec 3) : (s.offer words).tagBusy u v = s.tagBusy u v := rfl
@[simp] theorem State.offer_halted (words : List Word64) : (s.offer words).halted = s.halted := rfl
@[simp] theorem State.offer_cap (words : List Word64) : (s.offer words).cap = s.cap := rfl
@[simp] theorem dropPacket_nbuf (r : Status) (src : Byte) (tag : BitVec 3) : (dropPacket s r src tag).nbuf = s.nbuf := rfl
@[simp] theorem dropPacket_buf (r : Status) (src : Byte) (tag : BitVec 3) (h : Nat) : (dropPacket s r src tag).buf h = s.buf h := rfl
@[simp] theorem dropPacket_freeHandle (r : Status) (src : Byte) (tag : BitVec 3) : (dropPacket s r src tag).freeHandle = s.freeHandle := rfl
@[simp] theorem dropPacket_freeCount (r : Status) (src : Byte) (tag : BitVec 3) : (dropPacket s r src tag).freeCount = s.freeCount := rfl
@[simp] theorem dropPacket_nctx (r : Status) (src : Byte) (tag : BitVec 3) : (dropPacket s r src tag).nctx = s.nctx := rfl
@[simp] theorem dropPacket_ctx (r : Status) (src : Byte) (tag : BitVec 3) (j : Nat) : (dropPacket s r src tag).ctx j = s.ctx j := rfl
@[simp] theorem dropPacket_freeSlot (r : Status) (src : Byte) (tag : BitVec 3) : (dropPacket s r src tag).freeSlot = s.freeSlot := rfl
@[simp] theorem dropPacket_liveContexts (r : Status) (src : Byte) (tag : BitVec 3) : (dropPacket s r src tag).liveContexts = s.liveContexts := rfl
@[simp] theorem dropPacket_lookup (r : Status) (src : Byte) (tag : BitVec 3) (u : Byte) (v : BitVec 3) : (dropPacket s r src tag).lookup u v = s.lookup u v := rfl
@[simp] theorem dropPacket_tagBusy (r : Status) (src : Byte) (tag : BitVec 3) (u : Byte) (v : BitVec 3) : (dropPacket s r src tag).tagBusy u v = s.tagBusy u v := rfl
@[simp] theorem dropPacket_halted (r : Status) (src : Byte) (tag : BitVec 3) : (dropPacket s r src tag).halted = s.halted := rfl
@[simp] theorem dropPacket_cap (r : Status) (src : Byte) (tag : BitVec 3) : (dropPacket s r src tag).cap = s.cap := rfl
@[simp] theorem deliverMessage_nbuf (src : Byte) (bs : List Byte) : (deliverMessage s src bs).nbuf = s.nbuf := rfl
@[simp] theorem deliverMessage_buf (src : Byte) (bs : List Byte) (h : Nat) : (deliverMessage s src bs).buf h = s.buf h := rfl
@[simp] theorem deliverMessage_freeHandle (src : Byte) (bs : List Byte) : (deliverMessage s src bs).freeHandle = s.freeHandle := rfl
@[simp] theorem deliverMessage_freeCount (src : Byte) (bs : List Byte) : (deliverMessage s src bs).freeCount = s.freeCount := rfl
@[simp] theorem deliverMessage_nctx (src : Byte) (bs : List Byte) : (deliverMessage s src bs).nctx = s.nctx := rfl
@[simp] theorem deliverMessage_ctx (src : Byte) (bs : List Byte) (j : Nat) : (deliverMessage s src bs).ctx j = s.ctx j := rfl
@[simp] theorem deliverMessage_freeSlot (src : Byte) (bs : List Byte) : (deliverMessage s src bs).freeSlot = s.freeSlot := rfl
@[simp] theorem deliverMessage_liveContexts (src : Byte) (bs : List Byte) : (deliverMessage s src bs).liveContexts = s.liveContexts := rfl
@[simp] theorem deliverMessage_lookup (src : Byte) (bs : List Byte) (u : Byte) (v : BitVec 3) : (deliverMessage s src bs).lookup u v = s.lookup u v := rfl
@[simp] theorem deliverMessage_tagBusy (src : Byte) (bs : List Byte) (u : Byte) (v : BitVec 3) : (deliverMessage s src bs).tagBusy u v = s.tagBusy u v := rfl
@[simp] theorem deliverMessage_halted (src : Byte) (bs : List Byte) : (deliverMessage s src bs).halted = s.halted := rfl
@[simp] theorem deliverMessage_cap (src : Byte) (bs : List Byte) : (deliverMessage s src bs).cap = s.cap := rfl
@[simp] theorem writeGate_nbuf (val : Word32) : (writeGate val s).nbuf = s.nbuf := rfl
@[simp] theorem writeGate_buf (val : Word32) (h : Nat) : (writeGate val s).buf h = s.buf h := rfl
@[simp] theorem writeGate_freeHandle (val : Word32) : (writeGate val s).freeHandle = s.freeHandle := rfl
@[simp] theorem writeGate_freeCount (val : Word32) : (writeGate val s).freeCount = s.freeCount := rfl
@[simp] theorem writeGate_nctx (val : Word32) : (writeGate val s).nctx = s.nctx := rfl
@[simp] theorem writeGate_ctx (val : Word32) (j : Nat) : (writeGate val s).ctx j = s.ctx j := rfl
@[simp] theorem writeGate_freeSlot (val : Word32) : (writeGate val s).freeSlot = s.freeSlot := rfl
@[simp] theorem writeGate_liveContexts (val : Word32) : (writeGate val s).liveContexts = s.liveContexts := rfl
@[simp] theorem writeGate_lookup (val : Word32) (u : Byte) (v : BitVec 3) : (writeGate val s).lookup u v = s.lookup u v := rfl
@[simp] theorem writeGate_tagBusy (val : Word32) (u : Byte) (v : BitVec 3) : (writeGate val s).tagBusy u v = s.tagBusy u v := rfl
@[simp] theorem writeGate_halted (val : Word32) : (writeGate val s).halted = s.halted := rfl
@[simp] theorem writeGate_cap (val : Word32) : (writeGate val s).cap = s.cap := rfl
@[simp] theorem resetStep_cap : (resetStep s).cap = s.cap := rfl

/-- A raised fault halts the engine (60_exceptions.md R291, 10_state.md R38). -/
@[simp] theorem State.raise_halted (op : Byte) (c : Cause) (info : Byte) : (s.raise op c info).halted = true := rfl

/-- Reset leaves the halted state (70_reset_and_hazards.md R322). -/
@[simp] theorem resetStep_halted : (resetStep s).halted = false := rfl

end Sys2Proof.Machine
end

