-- ==== Sys2Proof/Laws/Ops.lean ====
section
/-! SUPPORT. For each shared operation, what it can do, said once: the lemmas that proofs cite instead of unfolding it. -/

namespace Sys2Proof.Machine

/-! ### While halted -/

theorem whenRunning_of_running {s : State} {k : Result} (h : s.halted = false) : whenRunning s k = k := by
  simp [whenRunning, h]

theorem whenRunning_of_halted {s : State} {k : Result} (h : s.halted = true) :
    whenRunning s k = .next (s.respond .faulted 0#32) := by
  simp [whenRunning, h]

/-- A guarded command that answers a next state was turned away while halted, or ran. -/
theorem whenRunning_next {s t : State} {k : Result} (h : whenRunning s k = .next t) :
    (s.halted = true ∧ t = s.respond .faulted 0#32) ∨ (s.halted = false ∧ k = .next t) := by
  unfold whenRunning at h
  split at h
  · rename_i hh
    exact .inl ⟨hh, by simpa using h.symm⟩
  · rename_i hh
    exact .inr ⟨by simpa using hh, h⟩

/-! ### Buffers -/

theorem State.buf_of_lt {s : State} {h : Nat} (hh : h < s.bufs.length) : s.buf h = s.bufs[h] := by
  simp [State.buf, List.getD_eq_getElem?_getD, List.getElem?_eq_getElem hh]

theorem State.buf_mem {s : State} {h : Nat} (hh : h < s.nbuf) : s.buf h ∈ s.bufs := by
  rw [State.buf_of_lt hh]
  exact List.getElem_mem hh

theorem State.lt_nbuf_of_alloc {s : State} {h : Nat} (ha : (s.buf h).alloc = true) : h < s.nbuf := by
  by_contra hh
  have hh' : s.bufs.length ≤ h := Nat.le_of_not_lt hh
  simp [State.buf, List.getD_eq_getElem?_getD, List.getElem?_eq_none hh', Buffer.absent] at ha

@[simp] theorem State.setBuf_nbuf (s : State) (h : Nat) (b : Buffer) : (s.setBuf h b).nbuf = s.nbuf := by
  simp [State.nbuf]

@[simp] theorem State.allocBuffer_nbuf (s : State) (h : Nat) (o : Owner) (p : Nat) :
    (s.allocBuffer h o p).nbuf = s.nbuf := by
  simp [State.nbuf]

@[simp] theorem State.setBuf_buf_same {s : State} {h : Nat} (b : Buffer) (hh : h < s.nbuf) :
    (s.setBuf h b).buf h = b := by
  have hh' : h < s.bufs.length := hh
  simp [State.buf, List.getD_eq_getElem?_getD, hh']

theorem State.setBuf_buf_other (s : State) {h h' : Nat} (b : Buffer) (hne : h' ≠ h) :
    (s.setBuf h b).buf h' = s.buf h' := by
  simp [State.buf, List.getD_eq_getElem?_getD, Ne.symm hne]

theorem State.allocBuffer_buf_same {s : State} {h : Nat} (o : Owner) (p : Nat) (hh : h < s.nbuf) :
    (s.allocBuffer h o p).buf h =
      ⟨true, o, s.params.headroom, s.params.headroom, s.params.headroom + Config.hdrLen + p, Memory.drawn s.draws⟩ := by
  have hh' : h < s.bufs.length := hh
  simp [State.buf, List.getD_eq_getElem?_getD, hh']

theorem State.allocBuffer_buf_other (s : State) {h h' : Nat} (o : Owner) (p : Nat) (hne : h' ≠ h) :
    (s.allocBuffer h o p).buf h' = s.buf h' := by
  simp [State.buf, List.getD_eq_getElem?_getD, Ne.symm hne]

/-- The lowest free handle, in terms of the buffers (41_arena.md R131). -/
theorem State.freeHandle_eq_some {s : State} {h : Nat} :
    s.freeHandle = some h ↔ h < s.nbuf ∧ (s.buf h).alloc = false ∧ ∀ h' < h, (s.buf h').alloc = true := by
  unfold State.freeHandle
  rw [List.findIdx?_eq_some_iff_getElem]
  constructor
  · rintro ⟨hh, h1, h2⟩
    refine ⟨hh, by simpa [State.buf_of_lt hh] using h1, fun h' hlt => ?_⟩
    simpa [State.buf_of_lt (Nat.lt_trans hlt hh)] using h2 h' hlt
  · rintro ⟨hh, h1, h2⟩
    have hh' : h < s.bufs.length := hh
    refine ⟨hh', by simpa [State.buf_of_lt hh'] using h1, fun h' hlt => ?_⟩
    simpa [State.buf_of_lt (Nat.lt_trans hlt hh')] using h2 h' hlt

/-- No handle is free exactly when every buffer is allocated (41_arena.md R131). -/
theorem State.freeHandle_eq_none {s : State} :
    s.freeHandle = none ↔ ∀ h < s.nbuf, (s.buf h).alloc = true := by
  unfold State.freeHandle
  rw [List.findIdx?_eq_none_iff]
  constructor
  · intro h1 h hh
    simpa using h1 _ (State.buf_mem hh)
  · intro h1 b hb
    obtain ⟨h, hh, rfl⟩ := List.getElem_of_mem hb
    simpa [State.buf_of_lt hh] using h1 h hh

/-! ### Handles, regions, bytes -/

theorem withHandle_live {s : State} {op : Opcode} {h : Byte} {k : Buffer → Result} (hr : s.halted = false)
    (hl : s.live h) : withHandle s op h k = k (s.buf h.toNat) := by
  simp [withHandle, whenRunning_of_running hr, Nat.not_le.2 hl.1, hl.2]

theorem withHandle_badHandle {s : State} {op : Opcode} {h : Byte} {k : Buffer → Result} (hr : s.halted = false)
    (hb : s.nbuf ≤ h.toNat) : withHandle s op h k = .next (s.raise op.code .badHandle h) := by
  simp [withHandle, whenRunning_of_running hr, hb]

theorem withHandle_notAllocated {s : State} {op : Opcode} {h : Byte} {k : Buffer → Result} (hr : s.halted = false)
    (hb : h.toNat < s.nbuf) (ha : (s.buf h.toNat).alloc = false) :
    withHandle s op h k = .next (s.raise op.code .notAllocated h) := by
  simp [withHandle, whenRunning_of_running hr, Nat.not_le.2 hb, ha]

/-- Whatever a handle command answers: turned away while halted, one of the two faults of CheckHandle, or its own
effect on the live buffer (41_arena.md R130). -/
theorem withHandle_cases (s : State) (op : Opcode) (h : Byte) (k : Buffer → Result) :
    (s.halted = true ∧ withHandle s op h k = .next (s.respond .faulted 0#32)) ∨
    (s.halted = false ∧ s.nbuf ≤ h.toNat ∧ withHandle s op h k = .next (s.raise op.code .badHandle h)) ∨
    (s.halted = false ∧ h.toNat < s.nbuf ∧ (s.buf h.toNat).alloc = false ∧
      withHandle s op h k = .next (s.raise op.code .notAllocated h)) ∨
    (s.halted = false ∧ s.live h ∧ withHandle s op h k = k (s.buf h.toNat)) := by
  cases hr : s.halted
  · by_cases hb : s.nbuf ≤ h.toNat
    · exact .inr (.inl ⟨rfl, hb, withHandle_badHandle hr hb⟩)
    · have hb' := Nat.not_le.1 hb
      cases ha : (s.buf h.toNat).alloc
      · exact .inr (.inr (.inl ⟨rfl, hb', rfl, withHandle_notAllocated hr hb' ha⟩))
      · exact .inr (.inr (.inr ⟨rfl, ⟨hb', ha⟩, withHandle_live hr ⟨hb', ha⟩⟩))
  · exact .inl ⟨rfl, by unfold withHandle; exact whenRunning_of_halted hr⟩

/-- FREE and RXPKT of a live buffer: OWNED, or their own effect (41_arena.md R132, 44_reassembly.md R230). -/
theorem withOwnHandle_live {s : State} {op : Opcode} {h : Byte} {k : Buffer → Result} (hr : s.halted = false)
    (hl : s.live h) :
    withOwnHandle s op h k =
      if (s.buf h.toNat).owner = .txeng then .next (s.raise op.code .owned h) else k (s.buf h.toNat) :=
  withHandle_live hr hl

/-- RD8 and WR8 of a live buffer: BAD_REGION, OUT_OF_BOUNDS, or their own effect on one offset
(41_arena.md R140, R141). -/
theorem withByte_live {s : State} {op : Opcode} {h : Byte} {rg : Region} {idx : BitVec 16} {k : Nat → Result}
    (hr : s.halted = false) (hl : s.live h) :
    withByte s op h rg idx k =
      match (s.buf h.toNat).region rg with
      | none => .next (s.raise op.code .badRegion h)
      | some (base, len) =>
        if len ≤ idx.toNat then .next (s.raise op.code .outOfBounds h) else k (base + idx.toNat) :=
  withHandle_live hr hl

/-- A byte of a region of an allocated buffer whose window is in order lies inside the backing array
(10_state.md R31, R32; 20_memory.md R61). -/
theorem Buffer.region_lt_cap {p : Config.Params} {b : Buffer} {rg : Region} {base len i : Nat} (ha : b.alloc = true)
    (hw : b.windowOk p) (hreg : b.region rg = some (base, len)) (hi : i < len) : base + i < p.cap := by
  obtain ⟨h1, h2, h3, h4⟩ := hw ha
  cases rg <;> simp only [Buffer.region, Buffer.payloadLen, Option.some.injEq, Prod.mk.injEq, reduceCtorEq] at hreg <;>
    omega

/-! ### The primitives -/

theorem State.arenaOk_iff {s : State} {h off n : Nat} :
    s.arenaOk h off n = true ↔ n = 0 ∨ (h < s.nbuf ∧ (s.buf h).alloc = true ∧ off + n ≤ s.cap) := by
  simp [State.arenaOk, and_assoc]

theorem State.arenaReadN_eq {s : State} {h off n : Nat} (hl : h < s.nbuf) (ha : (s.buf h).alloc = true)
    (hc : off + n ≤ s.cap) : s.arenaReadN h off n = some ((s.buf h).data.readN off n) := by
  rw [State.arenaReadN, if_pos (State.arenaOk_iff.2 (.inr ⟨hl, ha, hc⟩))]

theorem State.arenaWriteN_eq {s : State} {h off : Nat} {bs : List Byte} (hl : h < s.nbuf)
    (ha : (s.buf h).alloc = true) (hc : off + bs.length ≤ s.cap) :
    s.arenaWriteN h off bs = some (s.setBuf h { s.buf h with data := (s.buf h).data.writeN off bs }) := by
  rw [State.arenaWriteN, if_pos (State.arenaOk_iff.2 (.inr ⟨hl, ha, hc⟩))]

theorem State.arenaRead_eq {s : State} {h off : Nat} (hl : h < s.nbuf) (ha : (s.buf h).alloc = true)
    (hc : off < s.cap) : s.arenaRead h off = some ((s.buf h).data.read off) := by
  rw [State.arenaRead, if_pos (State.arenaOk_iff.2 (.inr ⟨hl, ha, hc⟩))]

theorem State.arenaWrite_eq {s : State} {h off : Nat} {v : Byte} (hl : h < s.nbuf) (ha : (s.buf h).alloc = true)
    (hc : off < s.cap) :
    s.arenaWrite h off v = some (s.setBuf h { s.buf h with data := (s.buf h).data.write off v }) := by
  rw [State.arenaWrite, if_pos (State.arenaOk_iff.2 (.inr ⟨hl, ha, hc⟩))]

/-- What a write primitive answers is the state with those bytes of that buffer written. -/
theorem State.arenaWriteN_some {s t : State} {h off : Nat} {bs : List Byte} (hw : s.arenaWriteN h off bs = some t) :
    s.arenaOk h off bs.length = true ∧
      t = s.setBuf h { s.buf h with data := (s.buf h).data.writeN off bs } := by
  unfold State.arenaWriteN at hw
  split at hw
  · rename_i h1
    exact ⟨h1, by simpa using hw.symm⟩
  · simp at hw

theorem State.arenaWrite_some {s t : State} {h off : Nat} {v : Byte} (hw : s.arenaWrite h off v = some t) :
    s.arenaOk h off 1 = true ∧ t = s.setBuf h { s.buf h with data := (s.buf h).data.write off v } := by
  unfold State.arenaWrite at hw
  split at hw
  · rename_i h1
    exact ⟨h1, by simpa using hw.symm⟩
  · simp at hw

theorem State.txMemReadN_eq {s : State} {a n : Nat} (hc : n = 0 ∨ a + n ≤ s.params.txmemCap) :
    s.txMemReadN a n = some (s.txMem.readN a n) := by
  rw [State.txMemReadN, if_pos (by simpa using hc)]

theorem State.txMemWrite_eq {s : State} {a : Nat} {v : Byte} (hc : a < s.params.txmemCap) :
    s.txMemWrite a v = some { s with txMem := s.txMem.write a v } := by
  rw [State.txMemWrite, if_pos hc]

/-! ### The tag table -/

theorem tagKey_inj {d d' : Byte} {t t' : BitVec 3} (h : tagKey d t = tagKey d' t') : d = d' ∧ t = t' := by
  have h1 := t.isLt
  have h2 := t'.isLt
  unfold tagKey at h
  constructor
  · exact BitVec.eq_of_toNat_eq (by omega)
  · exact BitVec.eq_of_toNat_eq (by omega)

theorem tagKey_lt (d : Byte) (t : BitVec 3) : tagKey d t < 256 * Config.ntag := by
  have h1 := t.isLt
  have h2 := d.isLt
  unfold tagKey Config.ntag
  omega

theorem mem_insertRising {x y : Nat} {l : List Nat} : y ∈ insertRising x l ↔ y = x ∨ y ∈ l := by
  induction l with
  | nil => simp [insertRising]
  | cons z rest ih =>
    unfold insertRising
    split
    · simp
    · split
      · rename_i h
        subst h
        simp
      · simp [ih]; tauto

theorem insertRising_rising {x : Nat} {l : List Nat} (h : l.Pairwise (· < ·)) : (insertRising x l).Pairwise (· < ·) := by
  induction l with
  | nil => simp [insertRising]
  | cons z rest ih =>
    rw [List.pairwise_cons] at h
    unfold insertRising
    split
    · rename_i hlt
      refine List.pairwise_cons.2 ⟨fun d hd => ?_, List.pairwise_cons.2 h⟩
      rcases List.mem_cons.1 hd with rfl | hd
      · exact hlt
      · exact Nat.lt_trans hlt (h.1 d hd)
    · split
      · exact List.pairwise_cons.2 h
      · rename_i h1 h2
        refine List.pairwise_cons.2 ⟨fun d hd => ?_, ih h.2⟩
        rcases mem_insertRising.1 hd with rfl | hd
        · omega
        · exact h.1 d hd

/-- Taking a tag marks it busy and no other (10_state.md R35). -/
@[simp] theorem State.takeTag_tagBusy (s : State) (d u : Byte) (t v : BitVec 3) :
    (s.takeTag d t).tagBusy u v = (decide (u = d ∧ v = t) || s.tagBusy u v) := by
  rw [Bool.eq_iff_iff]
  simp only [State.tagBusy, State.takeTag, List.contains_iff_mem, mem_insertRising, Bool.or_eq_true, decide_eq_true_eq]
  constructor
  · rintro (h | h)
    · exact .inl (tagKey_inj h)
    · exact .inr h
  · rintro (⟨rfl, rfl⟩ | h)
    · exact .inl rfl
    · exact .inr h

/-- Releasing a tag marks it not busy and no other (43_fragmentation.md R208). -/
@[simp] theorem State.releaseTag_tagBusy (s : State) (d u : Byte) (t v : BitVec 3) :
    (s.releaseTag d t).tagBusy u v = (!decide (u = d ∧ v = t) && s.tagBusy u v) := by
  rw [Bool.eq_iff_iff]
  simp only [State.tagBusy, State.releaseTag, List.contains_iff_mem, List.mem_filter, Bool.and_eq_true,
    Bool.not_eq_true', decide_eq_false_iff_not, bne_iff_ne, ne_eq]
  constructor
  · rintro ⟨h1, h2⟩
    exact ⟨fun ⟨h3, h4⟩ => h2 (by rw [h3, h4]), h1⟩
  · rintro ⟨h1, h2⟩
    exact ⟨h2, fun h3 => h1 (tagKey_inj h3)⟩

/-- `AllocTag(d)` gives the lowest tag that is not busy (43_fragmentation.md R193). -/
theorem State.allocTag_eq_some {s : State} {d : Byte} {t : BitVec 3} :
    s.allocTag d = some t ↔ s.tagBusy d t = false ∧ ∀ u : BitVec 3, u.toNat < t.toNat → s.tagBusy d u = true := by
  have hlt : ∀ u : BitVec 3, BitVec.ofNat 3 u.toNat = u := fun u => by simp
  unfold State.allocTag
  rw [List.find?_map, Option.map_eq_some_iff]
  simp only [List.find?_range_eq_some, Function.comp, List.mem_range, Bool.not_eq_true', Bool.not_not]
  constructor
  · rintro ⟨n, ⟨h1, h2, h3⟩, rfl⟩
    refine ⟨h1, fun u hu => ?_⟩
    have hn : (BitVec.ofNat 3 n).toNat = n := by
      have : n < 8 := h2
      simp only [BitVec.toNat_ofNat]
      omega
    rw [hn] at hu
    simpa [hlt u] using h3 u.toNat hu
  · rintro ⟨h1, h2⟩
    refine ⟨t.toNat, ⟨by rw [hlt t]; exact h1, t.isLt, fun j hj => ?_⟩, hlt t⟩
    have hj8 : j < 8 := Nat.lt_trans hj t.isLt
    have hn : (BitVec.ofNat 3 j).toNat = j := by
      simp only [BitVec.toNat_ofNat]
      omega
    exact h2 _ (by rw [hn]; exact hj)

/-- No tag is free exactly when all are busy (43_fragmentation.md R193). -/
theorem State.allocTag_eq_none {s : State} {d : Byte} :
    s.allocTag d = none ↔ ∀ u : BitVec 3, s.tagBusy d u = true := by
  unfold State.allocTag
  simp only [List.find?_eq_none, List.mem_map, List.mem_range, forall_exists_index, and_imp]
  constructor
  · intro h u
    simpa using h u u.toNat u.isLt (by simp)
  · rintro h _ n - rfl
    simpa using h (BitVec.ofNat 3 n)

/-! ### The contexts -/

theorem State.ctx_of_lt {s : State} {k : Nat} (hk : k < s.ctxs.length) : s.ctx k = s.ctxs[k] := by
  simp [State.ctx, List.getD_eq_getElem?_getD, List.getElem?_eq_getElem hk]

theorem State.ctx_mem {s : State} {k : Nat} (hk : k < s.nctx) : s.ctx k ∈ s.ctxs := by
  rw [State.ctx_of_lt hk]
  exact List.getElem_mem hk

@[simp] theorem State.setCtx_nctx (s : State) (k : Nat) (c : Context) : (s.setCtx k c).nctx = s.nctx := by
  simp [State.nctx]

@[simp] theorem State.destroyCtx_nctx (s : State) (k : Nat) : (s.destroyCtx k).nctx = s.nctx := by
  simp [State.nctx]

@[simp] theorem State.setCtx_ctx_same {s : State} {k : Nat} (c : Context) (hk : k < s.nctx) :
    (s.setCtx k c).ctx k = c := by
  have hk' : k < s.ctxs.length := hk
  simp [State.ctx, List.getD_eq_getElem?_getD, hk']

theorem State.setCtx_ctx_other (s : State) {k j : Nat} (c : Context) (hne : j ≠ k) :
    (s.setCtx k c).ctx j = s.ctx j := by
  simp [State.ctx, List.getD_eq_getElem?_getD, Ne.symm hne]

/-- The lowest free slot, in terms of the slots (44_reassembly.md R233). -/
theorem State.freeSlot_eq_some {s : State} {k : Nat} :
    s.freeSlot = some k ↔ k < s.nctx ∧ (s.ctx k).valid = false ∧ ∀ j < k, (s.ctx j).valid = true := by
  unfold State.freeSlot
  rw [List.findIdx?_eq_some_iff_getElem]
  constructor
  · rintro ⟨hk, h1, h2⟩
    refine ⟨hk, by simpa [State.ctx_of_lt hk] using h1, fun j hlt => ?_⟩
    simpa [State.ctx_of_lt (Nat.lt_trans hlt hk)] using h2 j hlt
  · rintro ⟨hk, h1, h2⟩
    have hk' : k < s.ctxs.length := hk
    refine ⟨hk', by simpa [State.ctx_of_lt hk'] using h1, fun j hlt => ?_⟩
    simpa [State.ctx_of_lt (Nat.lt_trans hlt hk')] using h2 j hlt

theorem State.freeSlot_eq_none {s : State} : s.freeSlot = none ↔ ∀ k < s.nctx, (s.ctx k).valid = true := by
  unfold State.freeSlot
  rw [List.findIdx?_eq_none_iff]
  constructor
  · intro h1 k hk
    simpa using h1 _ (State.ctx_mem hk)
  · intro h1 c hc
    obtain ⟨k, hk, rfl⟩ := List.getElem_of_mem hc
    simpa [State.ctx_of_lt hk] using h1 k hk

/-- Lookup finds nothing exactly when no live context has the key (10_state.md R34). -/
theorem State.lookup_eq_none {s : State} {src : Byte} {tag : BitVec 3} :
    s.lookup src tag = none ↔ s.noContext src tag := by
  unfold State.lookup
  rw [List.findIdx?_eq_none_iff]
  constructor
  · rintro h1 k - ⟨hk, hv, hs, ht⟩
    have := h1 _ (State.ctx_mem hk)
    simp [hv, hs, ht] at this
  · intro h1 c hc
    obtain ⟨k, hk, rfl⟩ := List.getElem_of_mem hc
    rw [← State.ctx_of_lt hk, ← Bool.not_eq_true, Bool.and_eq_true, Bool.and_eq_true, beq_iff_eq, beq_iff_eq]
    exact fun hkey => h1 k hk ⟨hk, hkey.1.1, hkey.1.2, hkey.2⟩

/-- What Lookup finds holds the key (10_state.md R34). -/
theorem State.lookup_some {s : State} {src : Byte} {tag : BitVec 3} {k : Nat} (h : s.lookup src tag = some k) :
    s.holds k src tag := by
  unfold State.lookup at h
  rw [List.findIdx?_eq_some_iff_getElem] at h
  obtain ⟨hk, h1, -⟩ := h
  rw [← State.ctx_of_lt hk] at h1
  simp only [Bool.and_eq_true, beq_iff_eq] at h1
  exact ⟨hk, h1.1.1, h1.1.2, h1.2⟩

/-- Where at most one live context has a key, two slots that hold it are one (10_state.md R34). -/
theorem State.holds_unique {s : State} {src : Byte} {tag : BitVec 3} {j k : Nat} (hs : s.contextInv)
    (hj : s.holds j src tag) (hk : s.holds k src tag) : j = k := by
  have key : ∀ a b : Nat, a < b → s.holds a src tag → s.holds b src tag → False := by
    intro a b hab ⟨ha, ha1, ha2, ha3⟩ ⟨hb, hb1, hb2, hb3⟩
    have ha' : a < s.ctxs.length := ha
    have hb' : b < s.ctxs.length := hb
    rw [State.ctx_of_lt ha'] at ha1 ha2 ha3
    rw [State.ctx_of_lt hb'] at hb1 hb2 hb3
    exact List.pairwise_iff_getElem.1 hs.2.2 a b ha' hb' hab ha1 hb1 ⟨ha2.trans hb2.symm, ha3.trans hb3.symm⟩
  rcases Nat.lt_trichotomy j k with h | h | h
  · exact (key j k h hj hk).elim
  · exact h
  · exact (key k j h hk hj).elim

/-- Lookup finds the slot that holds the key (10_state.md R34). -/
theorem State.lookup_of_holds {s : State} {src : Byte} {tag : BitVec 3} {k : Nat} (hs : s.contextInv)
    (hk : s.holds k src tag) : s.lookup src tag = some k := by
  cases h : s.lookup src tag with
  | none => exact ((State.lookup_eq_none.1 h) k hk.1 hk).elim
  | some j => rw [State.holds_unique hs (State.lookup_some h) hk]

/-! ### The step -/

/-- What a step does, by the agent whose turn is next (10_state.md R20; 20_memory.md R73). -/
theorem step_cases (s : State) :
    (s.inputs = [] ∧ step s = .next (s.begin [])) ∨
    (∃ words rest, s.inputs = .command words :: rest ∧ step s = runTransaction words (s.begin rest)) ∨
    (∃ rest, s.inputs = .txEngine :: rest ∧ step s = txEngineStep (s.begin rest)) ∨
    (∃ rest, s.inputs = .reset :: rest ∧ step s = .next (resetStep (s.begin rest))) := by
  unfold step
  cases h : s.inputs with
  | nil => exact .inl ⟨rfl, rfl⟩
  | cons x rest =>
    cases x with
    | command words => exact .inr (.inl ⟨words, rest, rfl, rfl⟩)
    | txEngine => exact .inr (.inr (.inl ⟨rest, rfl, rfl⟩))
    | reset => exact .inr (.inr (.inr ⟨rest, rfl, rfl⟩))

/-- What the command port does with a transaction: it executes the decoded command, takes the decode fault, or refuses
what is no transaction (30_encoding.md R105, R107). -/
theorem runTransaction_cases (words : List Word64) (s : State) :
    (∃ i, decode words = .ok i ∧ runTransaction words s = exec i s) ∨
    (∃ c, (c = .illegalOpcode ∨ c = .reservedField) ∧ runTransaction words s = decodeFault c (words.headD 0#64) s) ∨
    runTransaction words s = .refused .notATransaction := by
  unfold runTransaction
  cases h : decode words with
  | ok i => exact .inl ⟨i, rfl, rfl⟩
  | error e =>
    cases e with
    | illegalOpcode => exact .inr (.inl ⟨_, .inl rfl, rfl⟩)
    | reservedField => exact .inr (.inl ⟨_, .inr rfl, rfl⟩)
    | notATransaction => exact .inr (.inr rfl)

end Sys2Proof.Machine
end

