-- ==== Sys2Proof/Laws/Engine.lean ====
section
/-! SUPPORT. For each shared operation of the fragmentation and the reassembly engine, what it can do, said once, and the
small lemmas of the runs that the statements speak of. -/

namespace Sys2Proof.Machine

/-! ### The end of a message (43_fragmentation.md R207) -/

@[simp] theorem State.finish_tx (s : State) (c : Status) : (s.finish c).tx = { s.tx with phase := .idle, code := c } := by
  unfold State.finish State.releaseMessageTag
  split
  · rfl
  · split <;> rfl

@[simp] theorem State.finish_events (s : State) (c : Status) : (s.finish c).events = s.events ++ [.txDone c] := by
  unfold State.finish State.releaseMessageTag
  split
  · rfl
  · split <;> rfl

/-- `Finish` writes the tag table, the TX engine and the event history, nothing else. -/
theorem State.finish_frame (s : State) (c : Status) :
    s.finish c = { s with
      busyTags := (s.finish c).busyTags
      tx := { s.tx with phase := .idle, code := c }
      events := s.events ++ [.txDone c] } := by
  unfold State.finish State.releaseMessageTag
  split
  · rfl
  · split <;> rfl

/-- A success keeps every tag. -/
theorem State.finish_ok_tags (s : State) : (s.finish .ok).busyTags = s.busyTags := rfl

/-- A failure releases the tag that the message allocated, and no other. -/
theorem State.finish_error_tagBusy (s : State) {c : Status} (hc : c ≠ .ok) (d : Byte) (t : BitVec 3) :
    (s.finish c).tagBusy d t = true ↔
      s.tagBusy d t = true ∧ ¬(s.tx.tagAlloc = true ∧ d = s.tx.dest ∧ t = s.tx.tag) := by
  have e : (s.finish c).tagBusy d t = s.releaseMessageTag.tagBusy d t := by
    unfold State.finish
    rw [if_neg hc]
    rfl
  rw [e]
  unfold State.releaseMessageTag
  cases h : s.tx.tagAlloc
  · simp
  · simp; tauto

/-! ### The TX engine's turn (43_fragmentation.md R203, R204) -/

/-- What the TX engine's turn can be: no step, the end of the message by the gate or for want of a buffer, or a packet in
the lowest free buffer. -/
theorem txEngineStep_cases (s : State) :
    (s.txEnabled = false ∧ txEngineStep s = .next s) ∨
    (s.txEnabled = true ∧ s.gate = false ∧ txEngineStep s = .next (s.finish .errTxDisabled)) ∨
    (s.txEnabled = true ∧ s.gate = true ∧ s.freeHandle = none ∧ txEngineStep s = .next (s.finish .errNoBuf)) ∨
    (∃ h, s.txEnabled = true ∧ s.gate = true ∧ s.freeHandle = some h ∧ txEngineStep s = sendPacket s h) := by
  unfold txEngineStep
  cases he : s.txEnabled
  · exact .inl ⟨rfl, rfl⟩
  · cases hg : s.gate
    · exact .inr (.inl ⟨rfl, rfl, rfl⟩)
    · cases hf : s.freeHandle with
      | none => exact .inr (.inr (.inl ⟨rfl, rfl, rfl, rfl⟩))
      | some h => exact .inr (.inr (.inr ⟨h, rfl, rfl, rfl, rfl⟩))

/-- The TX engine has a step in phase NEXT alone, on a running engine. -/
theorem State.txEnabled_iff {s : State} :
    s.txEnabled = true ↔
      s.halted = false ∧ s.tx.phase = .next ∧ ¬(s.gate = false ∧ s.cfg.gatePolicy = .block) := by
  unfold State.txEnabled State.held
  cases s.halted <;> cases s.gate <;> simp
  intro h; simp [h]

theorem chunkLen_le_mtu (len i : Nat) : chunkLen len i ≤ Config.mtu := Nat.min_le_left _ _

/-- A chunk lies inside its message, where it is not empty. -/
theorem chunkLen_bound (len i : Nat) : chunkLen len i = 0 ∨ i * Config.mtu + chunkLen len i ≤ len := by
  unfold chunkLen
  generalize i * Config.mtu = a
  omega

@[simp] theorem State.packetHeader_length (s : State) : s.packetHeader.length = Config.hdrLen := rfl

/-- The packet step in a free buffer, where the message lies in TxMem: the buffer that holds the packet, the engine's
registers and the one event (43_fragmentation.md R203). -/
theorem sendPacket_eq {s : State} {h : Nat} (hh : h < s.nbuf) (hl : s.tx.len ≤ s.params.txmemCap) :
    sendPacket s h = .next { s with
      bufs := s.bufs.set h
        { alloc := true, owner := .txeng, start := s.params.headroom, hdr := s.params.headroom
          endOff := s.params.headroom + Config.hdrLen + chunkLen s.tx.len s.tx.i
          data := (Memory.drawn s.draws).writeN s.params.headroom
            (s.packetHeader ++ s.txMem.readN (s.tx.i * Config.mtu) (chunkLen s.tx.len s.tx.i)) }
      tx := { s.tx with cur := h, phase := .waitAck }
      events := s.events ++
        [.pktOut h (s.packetHeader ++ s.txMem.readN (s.tx.i * Config.mtu) (chunkLen s.tx.len s.tx.i))]
      draws := s.draws + 1 } := by
  have hlen := chunkLen_le_mtu s.tx.len s.tx.i
  have e1 : s.txMemReadN (s.tx.i * Config.mtu) (chunkLen s.tx.len s.tx.i) = some _ :=
    State.txMemReadN_eq (by rcases chunkLen_bound s.tx.len s.tx.i with h0 | h0 <;> omega)
  unfold sendPacket
  simp only [e1]
  generalize hc : chunkLen s.tx.len s.tx.i = clen at *
  generalize hp : s.txMem.readN (s.tx.i * Config.mtu) clen = pay
  have hpl : pay.length = clen := by rw [← hp]; simp
  generalize ha : s.allocBuffer h .txeng clen = a
  have hab := State.allocBuffer_buf_same .txeng clen hh
  rw [ha] at hab
  have han : h < a.nbuf := by rw [← ha]; simpa using hh
  have hcap : a.cap = s.params.headroom + Config.hdrLen + Config.mtu + s.params.tailroom := by rw [← ha]; rfl
  have hsum : (s.packetHeader ++ pay).length = Config.hdrLen + clen := by simp [hpl]
  have e2 := State.arenaWriteN_eq (s := a) (h := h) (off := s.params.headroom) (bs := s.packetHeader ++ pay) han
    (by rw [hab]) (by rw [hsum, hcap]; omega)
  simp only [e2]
  have hb2 : (a.setBuf h { a.buf h with data := (a.buf h).data.writeN s.params.headroom (s.packetHeader ++ pay) }).buf h
      = { a.buf h with data := (a.buf h).data.writeN s.params.headroom (s.packetHeader ++ pay) } :=
    State.setBuf_buf_same _ han
  have e3 := State.arenaReadN_eq
    (s := a.setBuf h { a.buf h with data := (a.buf h).data.writeN s.params.headroom (s.packetHeader ++ pay) }) (h := h)
    (off := s.params.headroom) (n := Config.hdrLen + clen) (by simpa using han) (by rw [hb2, hab])
    (by show _ ≤ a.cap; rw [hcap]; omega)
  simp only [e3, hb2]
  rw [show Config.hdrLen + clen = (s.packetHeader ++ pay).length from hsum.symm, Memory.readN_writeN, hab, ← ha]
  simp [State.setBuf, State.allocBuffer, State.emit]

/-! ### The reassembly engine (44_reassembly.md R230 to R235) -/

/-- RXPKT of a ready buffer consumes it and hands its header and payload to `Reassemble`. -/
theorem execRxpkt_ready {s : State} {h : Byte} (hr : s.rxReady h) :
    execRxpkt h s = .next (reassemble (s.consumed h) (s.rxHeader h) (s.rxPayload h)) := by
  obtain ⟨h1, hl, ho, hw⟩ := hr
  obtain ⟨_, _, h3, h4⟩ := hw hl.2
  have e1 := State.arenaReadN_eq (s := s) (off := (s.buf h.toNat).hdr) (n := Config.hdrLen) hl.1 hl.2
    (by show _ ≤ s.params.cap; omega)
  have e2 := State.arenaReadN_eq (s := s) (off := (s.buf h.toNat).hdr + Config.hdrLen)
    (n := (s.buf h.toNat).payloadLen) hl.1 hl.2 (by show _ ≤ s.params.cap; unfold Buffer.payloadLen; omega)
  simp [execRxpkt, withOwnHandle_live h1 hl, ho, e1, e2, State.rxHeader, State.rxPayload, State.consumed, State.setBuf]

/-- A packet that passes the filters goes to the SOM path or to the other. -/
theorem reassemble_passes {s : State} {hd : Header} {pay : List Byte} (h1 : hd.ok = true) (h2 : s.accepts hd.dest = true)
    (h3 : pay.length ≤ Config.mtu) :
    reassemble s hd pay =
      if hd.ctl.som then reassembleFirst s hd.src hd.ctl pay else reassembleNext s hd.src hd.ctl pay := by
  simp [reassemble, h1, h2, Nat.not_lt.2 h3]

theorem State.destroyKey_of_noContext {s : State} {src : Byte} {tag : BitVec 3} (h : s.noContext src tag) :
    s.destroyKey src tag = s := by
  simp [State.destroyKey, State.lookup_eq_none.2 h]

theorem State.destroyKey_of_holds {s : State} {src : Byte} {tag : BitVec 3} {k : Nat} (hs : s.contextInv)
    (hk : s.holds k src tag) : s.destroyKey src tag = s.destroyCtx k := by
  simp [State.destroyKey, State.lookup_of_holds hs hk]

@[simp] theorem State.destroyKey_nctx (s : State) (src : Byte) (tag : BitVec 3) :
    (s.destroyKey src tag).nctx = s.nctx := by
  unfold State.destroyKey
  split <;> simp

/-- `Reassemble` writes the contexts, the event history and the response, nothing else. -/
theorem reassemble_frame (s : State) (hd : Header) (pay : List Byte) :
    reassemble s hd pay = { s with
      ctxs := (reassemble s hd pay).ctxs
      events := (reassemble s hd pay).events
      response := (reassemble s hd pay).response } := by
  unfold reassemble
  split
  · rfl
  split
  · rfl
  split
  · rfl
  split
  · unfold reassembleFirst State.destroyKey
    dsimp only
    split <;> split <;> first | rfl | (split <;> rfl)
  · unfold reassembleNext
    dsimp only
    split
    · rfl
    · split
      · rfl
      · split
        · rfl
        · split <;> rfl

/-- A ready buffer's packet is its four header bytes and its payload (44_reassembly.md R230). -/
theorem State.rxBytes_split {s : State} {h : Byte} (hr : s.rxReady h) :
    s.rxHeader h = hdrDecodeBytes ((s.rxBytes h).take Config.hdrLen) ∧
    s.rxPayload h = (s.rxBytes h).drop Config.hdrLen := by
  obtain ⟨_, hl, _, hw⟩ := hr
  obtain ⟨_, _, h3, _⟩ := hw hl.2
  have e : (s.buf h.toNat).endOff - (s.buf h.toNat).hdr = Config.hdrLen + (s.buf h.toNat).payloadLen := by
    unfold Buffer.payloadLen
    omega
  unfold State.rxHeader State.rxPayload State.rxBytes
  rw [e, Memory.readN_append]
  exact ⟨by rw [List.take_left' (by simp)], by rw [List.drop_left' (by simp)]⟩

/-! ### The packets of a message (43_fragmentation.md R190 to R192) -/

@[simp] theorem packetsOf_length (dest src : Byte) (tag : BitVec 3) (m : List Byte) :
    (packetsOf dest src tag m).length = pktCount m.length := by
  simp [packetsOf]

theorem packetsOf_getElem (dest src : Byte) (tag : BitVec 3) (m : List Byte) (i : Nat)
    (h : i < (packetsOf dest src tag m).length) :
    (packetsOf dest src tag m)[i] =
      hdrEncode dest src (packetControl i (pktCount m.length) tag) ++ (m.drop (i * Config.mtu)).take Config.mtu := by
  simp [packetsOf]

@[simp] theorem State.txMessage_length (s : State) : s.txMessage.length = s.tx.len := by simp [State.txMessage]

/-- The chunk of a stored message is the run of TxMem bytes that the packet step reads (43_fragmentation.md R191). -/
theorem State.txMessage_chunk (s : State) (i : Nat) :
    (s.txMessage.drop (i * Config.mtu)).take Config.mtu = s.txMem.readN (i * Config.mtu) (chunkLen s.tx.len i) := by
  apply List.ext_getElem
  · simp [chunkLen]
  · intro j h1 h2
    simp only [List.getElem_take, List.getElem_drop, State.txMessage, Memory.readN_getElem]
    congr 1
    omega

/-! ### Runs -/

@[simp] theorem rxRun_nil (s t : State) : rxRun [] s t ↔ t = s := Iff.rfl

theorem rxRun_cons (f : List Byte) (fs : List (List Byte)) (s t : State) :
    rxRun (f :: fs) s t ↔
      ∃ (u v : State) (h : Byte),
        s.sameReceiver u ∧ u.rxReady h ∧ u.rxBytes h = f ∧ exec (.rxpkt h) u = .next v ∧ rxRun fs v t := Iff.rfl

@[simp] theorem runSteps_zero (s : State) : runSteps 0 s = .next s := rfl

theorem runSteps_succ_of_next {s t : State} (n : Nat) (h : step s = .next t) : runSteps (n + 1) s = runSteps n t := by
  simp [runSteps, h]

/-- `n + 1` turns of a send are one packet's two turns, then the rest. -/
theorem sendTurns_succ (n : Nat) :
    sendTurns (n + 1) = .txEngine :: .command [0x2300000000000000#64] :: sendTurns n := by
  simp [sendTurns, List.replicate_succ]

end Sys2Proof.Machine
end

