-- ==== Sys2Proof/Laws/PerInstr.lean ====
section
/-! SUPPORT. The families of facts about every command, one lemma per constructor of Instr. -/

namespace Sys2Proof.Laws

/-- The command word of `i` has `i`'s opcode in its OP field, no reserved bit of its format set, and is followed by as many
beats as it asks for (30_encoding.md R90, R91). -/
def WordInFormat.Statement (i : Instr) : Prop :=
  i.wf → opField i.word = i.opcode.code ∧ i.word &&& i.opcode.reservedMask = 0#64 ∧ i.beats.length = beatCount i.word

/-- The OP field is the opcode where the operand fields leave it 0. -/
theorem opField_word {i : Instr} (h : field i.operandBits 56 8 = 0#8) : opField i.word = i.opcode.code := by
  simp [opField, Instr.word, h, field_place_same]

/-- No opcode stands in a reserved bit. -/
theorem code_and_mask (o : Opcode) : place o.code 56 &&& o.reservedMask = 0#64 :=
  place_and_eq_zero _ _ _ (by cases o <;> decide)

/-- Two fields clear of a mask are clear of it together. -/
theorem or_and_eq_zero {a b m : Word64} (ha : a &&& m = 0#64) (hb : b &&& m = 0#64) : (a ||| b) &&& m = 0#64 := by
  rw [BitVec.and_comm, BitVec.and_or_distrib_left, BitVec.and_comm m a, BitVec.and_comm m b, ha, hb, BitVec.or_self]

/-- An operand field whose bits no reserved bit overlaps. -/
theorem operandField {n : Nat} {v : BitVec n} {lo : Nat} {m : Word64} (h : field m lo n = 0#n) :
    place v lo &&& m = 0#64 :=
  place_and_eq_zero v lo m h

/-- A command with no beats is in its format where its operand fields are clear of OP and of the reserved bits. -/
theorem wordInFormat_of {i : Instr} (o : Opcode) (ho : i.opcode = o) (h1 : field i.operandBits 56 8 = 0#8)
    (h2 : i.operandBits &&& o.reservedMask = 0#64) (h3 : o ≠ .append) (h4 : i.beats = []) :
    WordInFormat.Statement i := by
  subst ho
  intro _
  have hop := opField_word h1
  refine ⟨hop, ?_, ?_⟩
  · exact or_and_eq_zero (code_and_mask _) h2
  · have : i.opcode.code ≠ Opcode.append.code := fun h => h3 (by
      have := congrArg opcodeOf h
      simpa using this)
    simp [beatCount, hop, this, h4]

theorem WordInFormat.nop : WordInFormat.Statement (.nop) :=
  wordInFormat_of .nop rfl (by simp [Instr.operandBits])
    (by decide) (by decide) rfl

theorem WordInFormat.alloc (len : BitVec 16) : WordInFormat.Statement (.alloc len) :=
  wordInFormat_of .alloc rfl (by simp [Instr.operandBits, field_place_disjoint])
    (operandField (by decide)) (by decide) rfl

theorem WordInFormat.free (h : Byte) : WordInFormat.Statement (.free h) :=
  wordInFormat_of .free rfl (by simp [Instr.operandBits, field_place_disjoint])
    (operandField (by decide)) (by decide) rfl

theorem WordInFormat.hdrv (h : Byte) : WordInFormat.Statement (.hdrv h) :=
  wordInFormat_of .hdrv rfl (by simp [Instr.operandBits, field_place_disjoint])
    (operandField (by decide)) (by decide) rfl

theorem WordInFormat.payv (h : Byte) : WordInFormat.Statement (.payv h) :=
  wordInFormat_of .payv rfl (by simp [Instr.operandBits, field_place_disjoint])
    (operandField (by decide)) (by decide) rfl

theorem WordInFormat.size (h : Byte) : WordInFormat.Statement (.size h) :=
  wordInFormat_of .size rfl (by simp [Instr.operandBits, field_place_disjoint])
    (operandField (by decide)) (by decide) rfl

theorem WordInFormat.winv (h : Byte) : WordInFormat.Statement (.winv h) :=
  wordInFormat_of .winv rfl (by simp [Instr.operandBits, field_place_disjoint])
    (operandField (by decide)) (by decide) rfl

theorem WordInFormat.growf (h : Byte) (n : BitVec 16) : WordInFormat.Statement (.growf h n) :=
  wordInFormat_of .growf rfl (by simp [Instr.operandBits, field_place_disjoint])
    (or_and_eq_zero (operandField (by decide)) (operandField (by decide))) (by decide) rfl

theorem WordInFormat.growb (h : Byte) (n : BitVec 16) : WordInFormat.Statement (.growb h n) :=
  wordInFormat_of .growb rfl (by simp [Instr.operandBits, field_place_disjoint])
    (or_and_eq_zero (operandField (by decide)) (operandField (by decide))) (by decide) rfl

theorem WordInFormat.append (h : Byte) (data : List Byte) : WordInFormat.Statement (.append h data) := by
  intro hw
  have hlen : (BitVec.ofNat 16 data.length).toNat = data.length := by
    simp only [Instr.wf] at hw
    simp only [BitVec.toNat_ofNat]
    omega
  have hop : opField (Instr.word (.append h data)) = Opcode.append.code :=
    opField_word (by simp [Instr.operandBits, field_place_disjoint])
  refine ⟨hop, ?_, ?_⟩
  · exact or_and_eq_zero (code_and_mask _)
      (or_and_eq_zero (place_and_eq_zero _ _ Opcode.append.reservedMask (by decide))
        (place_and_eq_zero _ _ Opcode.append.reservedMask (by decide)))
  · rw [beatCount, if_pos hop]
    simp [Instr.beats, Instr.word, Instr.operandBits, field_place_disjoint, field_place_same, hlen]

theorem WordInFormat.rd8 (h : Byte) (rg : Region) (idx : BitVec 16) : WordInFormat.Statement (.rd8 h rg idx) :=
  wordInFormat_of .rd8 rfl (by simp [Instr.operandBits, field_place_disjoint])
    (or_and_eq_zero (or_and_eq_zero (operandField (by decide)) (operandField (by decide))) (operandField (by decide))) (by decide) rfl

theorem WordInFormat.wr8 (h : Byte) (rg : Region) (idx : BitVec 16) (d : Byte) : WordInFormat.Statement (.wr8 h rg idx d) :=
  wordInFormat_of .wr8 rfl (by simp [Instr.operandBits, field_place_disjoint])
    (or_and_eq_zero (or_and_eq_zero (or_and_eq_zero (operandField (by decide)) (operandField (by decide))) (operandField (by decide))) (operandField (by decide))) (by decide) rfl

theorem WordInFormat.henc (dest : Byte) (src : Byte) (ctl : Control) : WordInFormat.Statement (.henc dest src ctl) :=
  wordInFormat_of .henc rfl (by simp [Instr.operandBits, field_place_disjoint])
    (or_and_eq_zero (or_and_eq_zero (operandField (by decide)) (operandField (by decide))) (operandField (by decide))) (by decide) rfl

theorem WordInFormat.hdec (hdr32 : Word32) : WordInFormat.Statement (.hdec hdr32) :=
  wordInFormat_of .hdec rfl (by simp [Instr.operandBits, field_place_disjoint])
    (operandField (by decide)) (by decide) rfl

theorem WordInFormat.txwr (addr : BitVec 16) (d : Byte) : WordInFormat.Statement (.txwr addr d) :=
  wordInFormat_of .txwr rfl (by simp [Instr.operandBits, field_place_disjoint])
    (or_and_eq_zero (operandField (by decide)) (operandField (by decide))) (by decide) rfl

theorem WordInFormat.txmsg (dest : Byte) (mode : TagMode) (len : BitVec 16) : WordInFormat.Statement (.txmsg dest mode len) :=
  match mode with
  | .explicit _ => wordInFormat_of .txmsg rfl (by simp [Instr.operandBits, field_place_disjoint])
    (or_and_eq_zero (or_and_eq_zero (operandField (by decide)) (operandField (by decide))) (operandField (by decide))) (by decide) rfl
  | .auto => wordInFormat_of .txmsg rfl (by simp [Instr.operandBits, field_place_disjoint])
    (or_and_eq_zero (or_and_eq_zero (operandField (by decide)) (operandField (by decide))) (operandField (by decide))) (by decide) rfl

theorem WordInFormat.tagfree (dest : Byte) (tag : BitVec 3) : WordInFormat.Statement (.tagfree dest tag) :=
  wordInFormat_of .tagfree rfl (by simp [Instr.operandBits, field_place_disjoint])
    (or_and_eq_zero (operandField (by decide)) (operandField (by decide))) (by decide) rfl

theorem WordInFormat.txack (st : Byte) : WordInFormat.Statement (.txack st) :=
  wordInFormat_of .txack rfl (by simp [Instr.operandBits, field_place_disjoint])
    (operandField (by decide)) (by decide) rfl

theorem WordInFormat.rxpkt (h : Byte) : WordInFormat.Statement (.rxpkt h) :=
  wordInFormat_of .rxpkt rfl (by simp [Instr.operandBits, field_place_disjoint])
    (operandField (by decide)) (by decide) rfl

theorem WordInFormat.ctxflush (sel : FlushSel) : WordInFormat.Statement (.ctxflush sel) :=
  match sel with
  | .key _ _ => wordInFormat_of .ctxflush rfl (by simp [Instr.operandBits, field_place_disjoint])
    (or_and_eq_zero (operandField (by decide)) (operandField (by decide))) (by decide) rfl
  | .all => wordInFormat_of .ctxflush rfl (by simp [Instr.operandBits, field_place_disjoint])
    (operandField (by decide)) (by decide) rfl

theorem WordInFormat.csrr (csr : Byte) : WordInFormat.Statement (.csrr csr) :=
  wordInFormat_of .csrr rfl (by simp [Instr.operandBits, field_place_disjoint])
    (operandField (by decide)) (by decide) rfl

theorem WordInFormat.csrw (csr : Byte) (val : Word32) : WordInFormat.Statement (.csrw csr val) :=
  wordInFormat_of .csrw rfl (by simp [Instr.operandBits, field_place_disjoint])
    (or_and_eq_zero (operandField (by decide)) (operandField (by decide))) (by decide) rfl

end Sys2Proof.Laws
end

