-- ==== Sys2Proof/Tests/Slice0.lean ====
section
/-! SUPPORT. The model's own tests. Expected values come from 95_test_vectors.md (the vector or example is named) or are worked
out by hand from the rule named. After them, for each statement with hypotheses, states and operands that meet them. -/

namespace Sys2Proof.Tests

open Sys2Proof.Machine

/-! ### Small states -/

/-- The state a step or a meaning answers; the reset state, which holds no response, where it stops. -/
def after : Result → State
  | .next t => t
  | .fault _ => State.reset
  | .refused _ => State.reset

/-- The response of a step or a meaning, none where it stops. -/
def answer (r : Result) : Option Response := (after r).response

/-- The engine bound as in 95_test_vectors.md ("Bound"): LOCAL_EID 0x08, policy FAIL. -/
def bound : State := { State.reset with cfg := { localEid := 0x08#8, bound := true, gatePolicy := .fail } }

/-- `s` with buffer h allocated, `n` payload bytes, and `bytes` written from the header up. -/
def withPacket (s : State) (h n : Nat) (bytes : List Byte) : State :=
  s.setBuf h { alloc := true, owner := .cmd, start := 4, hdr := 4, endOff := 8 + n,
               data := (Memory.drawn h).writeN 4 bytes }

/-- The bound engine with the bytes of one whole packet in buffer 0. -/
def received (bytes : List Byte) : State := withPacket bound 0 (bytes.length - 4) bytes

/-- `s` with all four buffers allocated. -/
def fullArena (s : State) : State :=
  withPacket (withPacket (withPacket (withPacket s 0 0 []) 1 0 []) 2 0 []) 3 0 []

/-- `s` with a message of 500 bytes to 0x09 under allocated tag 0, its packet number `i` next. -/
def sending (s : State) (i : Nat) : State :=
  { s with
    tx := { phase := .next, dest := 0x09#8, tag := 0#3, tagAlloc := true, len := 500, n := 3, i := i, cur := 0,
            code := .ok }
    busyTags := [72] }

/-- The same message with packet `i` in buffer 0 at the binding. -/
def waiting (s : State) (i : Nat) : State :=
  let t := sending s i
  ({ t with tx := { t.tx with phase := .waitAck } } : State).setBuf 0
    { alloc := true, owner := .txeng, start := 4, hdr := 4, endOff := 256, data := Memory.drawn 0 }

/-- `s` with a live context of source 0x09 and tag 1 in slot 0, expecting SEQ 1, with `n` bytes. -/
def reassembling (s : State) (n : Nat) : State :=
  s.setCtx 0 { valid := true, src := 0x09#8, tag := 1#3, exp := 1#2, len := n, acc := Memory.drawn 4 }

/-- `s` with a second live context, of source 0x09 and tag 2, in slot 1. -/
def bothSlots (s : State) : State :=
  (reassembling s 1).setCtx 1
    { valid := true, src := 0x09#8, tag := 2#3, exp := 1#2, len := 1, acc := Memory.drawn 5 }

/-- `s` halted by a double free of handle 0 (95_test_vectors.md V-F21). -/
def halted (s : State) : State :=
  { s with fault := { valid := true, cause := .notAllocated, opcode := 0x02#8, info := 0x00#8 } }

/-- `s` with its gate closed. -/
def closed (s : State) : State := { s with gate := false }

/-- `s` under the policy BLOCK. -/
def blocking (s : State) : State := { s with cfg := { s.cfg with gatePolicy := .block } }

/-! ### Well-formedness: its one check refuses an ill-formed command -/

theorem test_wf_refuses_append_of_65536_bytes : ¬(Instr.append 0x00#8 (List.replicate 65536 0x00#8)).wf := by
  show ¬(List.replicate 65536 0x00#8).length < 65536
  rw [List.length_replicate]; decide

theorem test_wfBool_is_wf (i : Instr) : i.wfBool = true ↔ i.wf := by cases i <;> simp [Instr.wfBool, Instr.wf]

/-! ### Decoding: one word of each command, written out from its format or taken from 95_test_vectors.md -/

theorem test_decode_nop : decode [0x0000000000000000#64] = .ok .nop := by rfl
theorem test_decode_alloc : decode [0x01000000000000F8#64] = .ok (.alloc 248#16) := by rfl
theorem test_decode_free : decode [0x0204000000000000#64] = .ok (.free 0x04#8) := by rfl
theorem test_decode_hdrv : decode [0x0302000000000000#64] = .ok (.hdrv 0x02#8) := by rfl
theorem test_decode_payv : decode [0x0481000000000000#64] = .ok (.payv 0x81#8) := by rfl
theorem test_decode_size : decode [0x05FF000000000000#64] = .ok (.size 0xFF#8) := by rfl
theorem test_decode_winv : decode [0x0603000000000000#64] = .ok (.winv 0x03#8) := by rfl
theorem test_decode_growf : decode [0x0701000000008002#64] = .ok (.growf 0x01#8 0x8002#16) := by rfl
theorem test_decode_growb : decode [0x0803000000000104#64] = .ok (.growb 0x03#8 0x0104#16) := by rfl

/-- V-A36: nine bytes in two beats; here the second beat's seven unused bytes are not 0 (30_encoding.md R102). -/
theorem test_decode_append :
    decode [0x0900000000000009#64, 0x0001020304050607#64, 0x08FFFFFFFFFFFFFF#64] =
      .ok (.append 0x00#8 [0x00#8, 0x01#8, 0x02#8, 0x03#8, 0x04#8, 0x05#8, 0x06#8, 0x07#8, 0x08#8]) := by rfl

theorem test_decode_append_no_beats : decode [0x0907000000000000#64] = .ok (.append 0x07#8 []) := by rfl
theorem test_decode_rd8 : decode [0x0A0240000000000A#64] = .ok (.rd8 0x02#8 .payload 10#16) := by rfl
theorem test_decode_rd8_reserved_region : decode [0x0A07C00000000000#64] = .ok (.rd8 0x07#8 .reserved 0#16) := by rfl
theorem test_decode_wr8 : decode [0x0B0180A500008008#64] = .ok (.wr8 0x01#8 .window 0x8008#16 0xA5#8) := by rfl

/-- V-C4. -/
theorem test_decode_henc :
    decode [0x1010206500000000#64] = .ok (.henc 0x10#8 0x20#8 ⟨false, true, 2#2, false, 5#3⟩) := by rfl

theorem test_decode_hdec : decode [0x1100000081080925#64] = .ok (.hdec 0x81080925#32) := by rfl
theorem test_decode_txwr : decode [0x200000F3000001F3#64] = .ok (.txwr 0x01F3#16 0xF3#8) := by rfl
theorem test_decode_txmsg_explicit : decode [0x21090300000000F8#64] = .ok (.txmsg 0x09#8 (.explicit 3#3) 248#16) := by rfl
theorem test_decode_txmsg_auto : decode [0x21098000000001F4#64] = .ok (.txmsg 0x09#8 .auto 500#16) := by rfl
theorem test_decode_tagfree : decode [0x2209050000000000#64] = .ok (.tagfree 0x09#8 5#3) := by rfl
theorem test_decode_txack : decode [0x2300000000000081#64] = .ok (.txack 0x81#8) := by rfl
theorem test_decode_rxpkt : decode [0x3003000000000000#64] = .ok (.rxpkt 0x03#8) := by rfl
theorem test_decode_ctxflush_key : decode [0x3109030000000000#64] = .ok (.ctxflush (.key 0x09#8 3#3)) := by rfl
theorem test_decode_ctxflush_all : decode [0x3100800000000000#64] = .ok (.ctxflush .all) := by rfl
theorem test_decode_csrr : decode [0x4007000000000000#64] = .ok (.csrr 0x07#8) := by rfl
theorem test_decode_csrw : decode [0x41010000FFFFFFFF#64] = .ok (.csrw 0x01#8 0xFFFFFFFF#32) := by rfl

/-- V-F1, V-F2: OP values outside the map. -/
theorem test_decode_illegal_opcodes :
    decode [0x0C00000000000000#64] = .error .illegalOpcode ∧ decode [0xFF00000000000000#64] = .error .illegalOpcode ∧
    decode [0x4200000000000000#64] = .error .illegalOpcode := ⟨rfl, rfl, rfl⟩

/-- V-F3 to V-F10, V-F16, V-C12: reserved bits, the conditional ones too. -/
theorem test_decode_reserved_fields :
    decode [0x0000000000000001#64] = .error .reservedField ∧ decode [0x0100000000010000#64] = .error .reservedField ∧
    decode [0x0200000000000001#64] = .error .reservedField ∧ decode [0x0A00000100000000#64] = .error .reservedField ∧
    decode [0x2109810000000000#64] = .error .reservedField ∧ decode [0x2200000000000001#64] = .error .reservedField ∧
    decode [0x3109800000000000#64] = .error .reservedField ∧ decode [0x4000000000000001#64] = .error .reservedField ∧
    decode [0x0A00C10000000000#64] = .error .reservedField ∧ decode [0x100908C800000001#64] = .error .reservedField :=
  ⟨rfl, rfl, rfl, rfl, rfl, rfl, rfl, rfl, rfl, rfl⟩

theorem test_decode_refuses_missing_beat : decode [0x0900000000000001#64] = .error .notATransaction := by rfl

/-- The words of a command go back to it, the last beat filled with zeros (V-A36). -/
theorem test_encode_append :
    encode (.append 0x00#8 [0x00#8, 0x01#8, 0x02#8, 0x03#8, 0x04#8, 0x05#8, 0x06#8, 0x07#8, 0x08#8]) =
      [0x0900000000000009#64, 0x0001020304050607#64, 0x0800000000000000#64] := by decide

theorem test_decodeTableWord : decodeTableWord 64 0x0A00400000000001 = some (.rd8 0x00#8 .payload 1#16) := by decide

/-- The next step after `withFetchWord` runs the instruction (V-A1 on a fresh engine). -/
theorem test_withFetchWord : answer (step (State.reset.withFetchWord 64 0x01000000000000F8)) = some ⟨.ok, 0#32⟩ := by decide

/-! ### One step of each command, and of the TX engine and reset -/

/-- V-K1. -/
theorem test_nop : answer (exec .nop State.reset) = some ⟨.ok, 0#32⟩ := by decide

/-- V-A1, V-A15: the window of 248 payload bytes; the length bound. -/
theorem test_alloc :
    answer (exec (.alloc 248#16) State.reset) = some ⟨.ok, 0#32⟩ ∧
    ((after (exec (.alloc 248#16) State.reset)).buf 0).endOff = 256 ∧
    answer (exec (.alloc 249#16) State.reset) = some ⟨.errLen, 0#32⟩ := by decide

/-- V-A19: every buffer taken. -/
theorem test_alloc_full : answer (exec (.alloc 4#16) (fullArena State.reset)) = some ⟨.errNoBuf, 0#32⟩ := by decide

/-- V-A12, V-A13: a free, and the double free's record 0x00000241. -/
theorem test_free :
    answer (exec (.free 0x00#8) (withPacket State.reset 0 0 [])) = some ⟨.ok, 0#32⟩ ∧
    answer (exec (.free 0x00#8) State.reset) = some ⟨.fault, 0#32⟩ ∧
    (after (exec (.free 0x00#8) State.reset)).csrFault = 0x00000241#32 := by decide

/-- V-T18: the TX engine's buffer. -/
theorem test_free_owned : (after (exec (.free 0x00#8) (waiting bound 0))).csrFault = 0x00000251#32 := by decide

/-- V-A2. -/
theorem test_hdrv : answer (exec (.hdrv 0x00#8) (withPacket State.reset 0 248 [])) = some ⟨.ok, 0x00040004#32⟩ := by decide

/-- V-A3. -/
theorem test_payv : answer (exec (.payv 0x00#8) (withPacket State.reset 0 248 [])) = some ⟨.ok, 0x000800F8#32⟩ := by decide

/-- V-A8. -/
theorem test_size : answer (exec (.size 0x00#8) (withPacket State.reset 0 252 [])) = some ⟨.ok, 0x000000FC#32⟩ := by decide

/-- V-A5. -/
theorem test_winv : answer (exec (.winv 0x00#8) (withPacket State.reset 0 248 [])) = some ⟨.ok, 0x000400FC#32⟩ := by decide

/-- V-A9, V-A10: down to start 0, and below it. -/
theorem test_growf :
    ((after (exec (.growf 0x00#8 4#16) (withPacket State.reset 0 0 []))).buf 0).start = 0 ∧
    answer (exec (.growf 0x00#8 5#16) (withPacket State.reset 0 0 [])) = some ⟨.errUnderflow, 0#32⟩ := by decide

/-- V-A6, V-A7: up to CAP, and past it. -/
theorem test_growb :
    ((after (exec (.growb 0x00#8 4#16) (withPacket State.reset 0 248 []))).buf 0).endOff = 260 ∧
    answer (exec (.growb 0x00#8 5#16) (withPacket State.reset 0 248 [])) = some ⟨.errFull, 0#32⟩ := by decide

/-- V-A26: data[8] = AA, data[9] = BB, end 10. -/
theorem test_append :
    ((after (exec (.append 0x00#8 [0xAA#8, 0xBB#8]) (withPacket State.reset 0 0 []))).buf 0).data.cells =
      [(8, 0xAA#8), (9, 0xBB#8)] ∧
    ((after (exec (.append 0x00#8 [0xAA#8, 0xBB#8]) (withPacket State.reset 0 0 []))).buf 0).endOff = 10 := by decide

/-- Example E5: past CAP nothing is appended. -/
theorem test_append_full :
    answer (exec (.append 0x00#8 [0x01#8]) (withPacket State.reset 0 252 [])) = some ⟨.errFull, 0#32⟩ ∧
    (after (exec (.append 0x00#8 [0x01#8]) (withPacket State.reset 0 252 []))).bufs =
      (withPacket State.reset 0 252 []).bufs := by decide

/-- V-A27. -/
theorem test_rd8 :
    answer (exec (.rd8 0x00#8 .payload 1#16) (withPacket State.reset 0 2 [1#8, 2#8, 3#8, 4#8, 0xAA#8, 0xBB#8])) =
      some ⟨.ok, 0x000000BB#32⟩ := by decide

/-- V-A40, V-F20: the index past the payload, and the reserved region. -/
theorem test_rd8_faults :
    (after (exec (.rd8 0x00#8 .payload 11#16) (withPacket State.reset 0 11 []))).csrFault = 0x00000A71#32 ∧
    (after (exec (.rd8 0x00#8 .reserved 0#16) (withPacket State.reset 0 0 []))).csrFault = 0x00000A61#32 := by decide

/-- V-A30: data[4] = 01. -/
theorem test_wr8 :
    ((after (exec (.wr8 0x00#8 .hdr 0#16 0x01#8) (withPacket State.reset 0 0 []))).buf 0).data.cells =
      [(4, 0x01#8)] := by decide

/-- V-A42, V-F17: the index past the header, and the handle's check before the region's. -/
theorem test_wr8_faults :
    (after (exec (.wr8 0x00#8 .hdr 4#16 0x01#8) (withPacket State.reset 0 0 []))).csrFault = 0x00000B71#32 ∧
    (after (exec (.wr8 0x07#8 .reserved 0#16 0x01#8) State.reset)).csrFault = 0x00070B31#32 := by decide

/-- V-C3. -/
theorem test_henc :
    answer (exec (.henc 0xFF#8 0xFF#8 ⟨true, true, 3#2, true, 7#3⟩) State.reset) = some ⟨.ok, 0x01FFFFFF#32⟩ := by decide

/-- V-C6, V-C10. -/
theorem test_hdec :
    answer (exec (.hdec 0x010908C8#32) State.reset) = some ⟨.ok, 0x090801C8#32⟩ ∧
    answer (exec (.hdec 0x11080925#32) State.reset) = some ⟨.errBadVersion, 0x08091125#32⟩ := by decide

/-- V-T2. -/
theorem test_txwr :
    (after (exec (.txwr 1023#16 0x11#8) bound)).txMem.cells = [(1023, 0x11#8)] ∧
    answer (exec (.txwr 0#16 0x01#8) (sending bound 0)) = some ⟨.errBusy, 0#32⟩ := by decide

/-- V-T20: the bounds fault before the busy status. -/
theorem test_txwr_bounds : (after (exec (.txwr 1024#16 0x01#8) (sending bound 0))).csrFault = 0x00002071#32 := by decide

/-- Example of 43_fragmentation.md R201. -/
theorem test_txmsg :
    answer (exec (.txmsg 0x09#8 .auto 500#16) bound) = some ⟨.ok, 0#32⟩ ∧
    (after (exec (.txmsg 0x09#8 .auto 500#16) bound)).tagBusy 0x09#8 0#3 = true ∧
    (after (exec (.txmsg 0x09#8 .auto 500#16) bound)).tx.n = 3 := by decide

set_option maxRecDepth 10000 in
/-- V-T1, V-T3, V-T4. -/
theorem test_txmsg_errors :
    answer (exec (.txmsg 0x09#8 .auto 1#16) State.reset) = some ⟨.errNoRoute, 0#32⟩ ∧
    answer (exec (.txmsg 0x09#8 .auto 1025#16) bound) = some ⟨.errLen, 0#32⟩ ∧
    answer (exec (.txmsg 0x09#8 (.explicit 0#3) 0#16) (sending bound 0)) = some ⟨.errBusy, 0#32⟩ := by decide

/-- Example of 43_fragmentation.md R208. -/
theorem test_tagfree :
    (after (exec (.tagfree 0x09#8 0#3) (sending bound 0))).tagBusy 0x09#8 0#3 = false ∧
    (after (exec (.tagfree 0x09#8 1#3) (sending bound 0))).tagBusy 0x09#8 0#3 = true := by decide

/-- 43_fragmentation.md R206: the last packet's acknowledgement ends the send (P2), another's goes on. -/
theorem test_txack :
    (after (exec (.txack 0x00#8) (waiting bound 2))).csrTxStat = 0x00030000#32 ∧
    (after (exec (.txack 0x00#8) (waiting bound 2))).events = [.reset, .txDone .ok] ∧
    (after (exec (.txack 0x00#8) (waiting bound 0))).csrTxStat = 0x00010001#32 := by decide

/-- V-T9, V-T5: a failure releases the tag and the buffer; an acknowledgement of nothing faults. -/
theorem test_txack_failure :
    (after (exec (.txack 0x01#8) (waiting bound 0))).csrTxStat = 0x00000900#32 ∧
    (after (exec (.txack 0x01#8) (waiting bound 0))).busyTags = [] ∧
    (after (exec (.txack 0x01#8) (waiting bound 0))).csrArena = 0x00040004#32 ∧
    (after (exec (.txack 0x00#8) State.reset)).csrFault = 0x00002391#32 := by decide

/-- V-R1, V-R2. -/
theorem test_rxpkt :
    answer (exec (.rxpkt 0x00#8) (received [1#8, 8#8, 9#8, 0xC8#8, 0xAA#8, 0xBB#8])) = some ⟨.rxDelivered, 2#32⟩ ∧
    (after (exec (.rxpkt 0x00#8) (received [1#8, 8#8, 9#8, 0xC8#8, 0xAA#8, 0xBB#8]))).events =
      [.reset, .deliver 0x09#8 2 [0xAA#8, 0xBB#8]] ∧
    (after (exec (.rxpkt 0x00#8) (received [2#8, 8#8, 9#8, 0xC8#8]))).events =
      [.reset, .log .rxDropVersion 0x09#8 0#3] := by decide

/-- The second packet of example E4: a SEQ gap destroys the context (tag 1 and expected SEQ 1 here). -/
theorem test_rxpkt_gap :
    answer (exec (.rxpkt 0x00#8) (reassembling (received [1#8, 8#8, 9#8, 0x29#8, 2#8]) 1)) = some ⟨.rxDropSeq, 0#32⟩ ∧
    (after (exec (.rxpkt 0x00#8) (reassembling (received [1#8, 8#8, 9#8, 0x29#8, 2#8]) 1))).csrCtx =
      0x00020000#32 := by decide

/-- V-R9b, V-R16: all, and a key with no context. -/
theorem test_ctxflush :
    answer (exec (.ctxflush .all) (bothSlots bound)) = some ⟨.ok, 2#32⟩ ∧
    answer (exec (.ctxflush (.key 0x09#8 3#3)) (bothSlots bound)) = some ⟨.ok, 0#32⟩ ∧
    answer (exec (.ctxflush (.key 0x09#8 2#3)) (bothSlots bound)) = some ⟨.ok, 1#32⟩ := by decide

/-- V-K2 to V-K9. -/
theorem test_csrr :
    answer (exec (.csrr 0x00#8) bound) = some ⟨.ok, 0x108#32⟩ ∧ answer (exec (.csrr 0x01#8) State.reset) = some ⟨.ok, 1#32⟩ ∧
    answer (exec (.csrr 0x02#8) State.reset) = some ⟨.ok, 0#32⟩ ∧
    answer (exec (.csrr 0x04#8) State.reset) = some ⟨.ok, 0x00040004#32⟩ ∧
    answer (exec (.csrr 0x05#8) State.reset) = some ⟨.ok, 0x00020000#32⟩ ∧
    answer (exec (.csrr 0x06#8) State.reset) = some ⟨.ok, 0x00040104#32⟩ ∧
    answer (exec (.csrr 0x07#8) State.reset) = some ⟨.ok, 0x04000400#32⟩ := by decide

/-- V-F22, V-F25: while halted a mapped CSR still reads, an unmapped one answers FAULTED. -/
theorem test_csrr_halted :
    answer (exec (.csrr 0x03#8) (halted bound)) = some ⟨.ok, 0x00000241#32⟩ ∧
    answer (exec (.csrr 0x08#8) (halted bound)) = some ⟨.faulted, 0#32⟩ := by decide

/-- V-K10, V-K11, V-K14. -/
theorem test_csrw_cfg :
    (after (exec (.csrw 0x00#8 0x208#32) State.reset)).csrCfg = 0x208#32 ∧
    answer (exec (.csrw 0x00#8 0x109#32) bound) = some ⟨.errAlreadyBound, 0#32⟩ := by decide

/-- V-K16, V-K20, V-F12. -/
theorem test_csrw_others :
    (after (exec (.csrw 0x01#8 0x00000000#32) State.reset)).csrGate = 0x00000000#32 ∧
    answer (exec (.csrw 0x02#8 0xFFFFFFFF#32) State.reset) = some ⟨.ok, 0#32⟩ ∧
    (after (exec (.csrw 0xFF#8 0x5#32) State.reset)).csrFault = 0x00FF4181#32 := by decide

set_option maxRecDepth 20000 in
/-- Example E2, packet 2: the last 4 bytes of the message, under header 01 09 08 68. -/
theorem test_txEngine :
    (after (txEngineStep { sending bound 2 with
        txMem := { cells := [(496, 0xF0#8), (497, 0xF1#8), (498, 0xF2#8), (499, 0xF3#8)], draw := 6 } })).events =
      [.reset, .pktOut 0 [0x01#8, 0x09#8, 0x08#8, 0x68#8, 0xF0#8, 0xF1#8, 0xF2#8, 0xF3#8]] := by decide

/-- V-T10, V-T17, and V-T11's hold: the gate under FAIL, no buffer, the gate under BLOCK. -/
theorem test_txEngine_ends :
    (after (txEngineStep (closed (sending bound 0)))).events = [.reset, .txDone .errTxDisabled] ∧
    (after (txEngineStep (fullArena (sending bound 0)))).events = [.reset, .txDone .errNoBuf] ∧
    (after (txEngineStep (blocking (closed (sending bound 0))))).events = [.reset] := by decide

/-- V-F31, V-F32, and 70_reset_and_hazards.md R321: a halted, sending engine reset. -/
theorem test_reset :
    (after (step { halted (sending bound 0) with inputs := [.reset] })).events = [.reset, .reset] ∧
    (after (step { halted (sending bound 0) with inputs := [.reset] })).csrCfg = 0#32 ∧
    (after (step { halted (sending bound 0) with inputs := [.reset] })).csrFault = 0#32 ∧
    (after (step { halted (sending bound 0) with inputs := [.reset] })).busyTags = [] := by decide

/-! ### States and operands that meet the hypotheses of the statements

Each theorem is named after its statement and meets every hypothesis of it, clause by clause, at the ends of the clause's
range. -/

theorem witness_DecodeOfEncodeIsTheCommand :
    (Instr.append 0xFF#8 (List.replicate 65535 0xFF#8)).wf ∧ (Instr.append 0x00#8 []).wf ∧
    (Instr.txmsg 0xFF#8 .auto 0xFFFF#16).wf := by
  refine ⟨?_, by decide, trivial⟩
  show (List.replicate 65535 0xFF#8).length < 65536
  rw [List.length_replicate]; decide

/-- One data byte, with the seven ignored bytes of its beat not 0. -/
theorem witness_DecodedWordIsTheEncodedWord :
    decode (0x0900000000000001#64 :: [0xAAFFFFFFFFFFFFFF#64]) = .ok (.append 0x00#8 [0xAA#8]) ∧
    0 < [0xAA#8].length := ⟨rfl, by decide⟩

/-- The longest data of APPEND with its last byte, and each region's code. -/
theorem witness_EncodedWordsHaveTheirFormats :
    (List.replicate 65535 0xFF#8).length < 65536 ∧ 65534 < (List.replicate 65535 0xFF#8).length ∧
    (Region.hdr = .hdr ∧ 0#2 = 0#2) ∧ (Region.payload = .payload ∧ 1#2 = 1#2) ∧
    (Region.window = .window ∧ 2#2 = 2#2) ∧ (Region.reserved = .reserved ∧ 3#2 = 3#2) := by
  rw [List.length_replicate]; decide

/-- No opcode; a reserved bit; the two conditional ones; none. -/
theorem witness_EveryWordDecodesOrIsNamed :
    (([] : List Word64).length = beatCount 0xFF00000000000000#64 ∧ ∀ o : Opcode, o.code ≠ opField 0xFF00000000000000#64) ∧
    (([] : List Word64).length = beatCount 0x0000000000000001#64 ∧ Opcode.nop.code = opField 0x0000000000000001#64 ∧
      0x0000000000000001#64 &&& Opcode.nop.reservedMask ≠ 0#64) ∧
    (Opcode.txmsg.code = opField 0x2109810000000000#64 ∧ field 0x2109810000000000#64 47 1 = 1#1 ∧
      field 0x2109810000000000#64 40 3 ≠ 0#3) ∧
    (Opcode.ctxflush.code = opField 0x3109800000000000#64 ∧ field 0x3109800000000000#64 47 1 = 1#1 ∧
      field 0x3109800000000000#64 48 8 ≠ 0#8) ∧
    (Opcode.ctxflush.code = opField 0x3100800000000000#64 ∧
      0x3100800000000000#64 &&& Opcode.ctxflush.reservedMask = 0#64 ∧
      ¬(field 0x3100800000000000#64 48 8 ≠ 0#8 ∨ field 0x3100800000000000#64 40 3 ≠ 0#3)) := by
  refine ⟨⟨by decide, fun o => by cases o <;> decide⟩, by decide, by decide, by decide, by decide⟩

theorem witness_StepRunsTheDecodedCommand :
    (State.reset.offer [0x3100800000000000#64]).inputs = .command [0x3100800000000000#64] :: [] ∧
    decode [0x3100800000000000#64] = .ok (.ctxflush .all) := ⟨rfl, rfl⟩

theorem witness_UndecodableWordsFault :
    (State.reset.offer [0x0C00000000000000#64]).inputs = .command (0x0C00000000000000#64 :: []) :: [] ∧
    decode [0x0C00000000000000#64] = .error .illegalOpcode ∧ decode [0x0A00C10000000000#64] = .error .reservedField ∧
    (State.reset.offer [0x0C00000000000000#64]).halted = false ∧
    (halted (State.reset.offer [0x0A00C10000000000#64])).halted = true := ⟨rfl, rfl, rfl, rfl, rfl⟩

/-- The smallest and the largest engine that 00_scope.md R7 allows. -/
theorem witness_ResetMeetsTheInvariant :
    (Config.Params.mk 1 0 0 1 248 1 []).legal ∧ (Config.Params.mk 256 0 65283 65535 65535 65535 [0xFF#8]).legal := by
  decide

/-- A halted, receiving, sending engine meets the invariant; its next step is reset. -/
theorem witness_StepKeepsTheInvariant :
    let s := { reassembling (halted (waiting bound 1)) 248 with inputs := [.reset] }
    s.Inv ∧ ∃ t, step s = .next t := by
  refine ⟨⟨?_, ?_, ?_, ?_, ?_, ?_, ?_⟩, _, rfl⟩ <;> decide

theorem witness_InvariantStepsNeverStop : (State.reset.offer [0x0A00400000000000#64]).Inv := by
  refine ⟨?_, ?_, ?_, ?_, ?_, ?_, ?_⟩ <;> decide

/-- A step that allocates free buffer 0 beside allocated buffer 1, and the reset step. -/
theorem witness_StepKeepsDrawsFresh :
    let s := (withPacket (sending bound 0) 1 0 []).offer [0x0100000000000000#64]
    s.drawsFresh ∧ (∀ rest, s.inputs ≠ .reset :: rest) ∧ (s.buf 0).alloc = false ∧ (s.buf 1).alloc = true ∧
    (∃ t, step s = .next t ∧ (t.buf 0).alloc = true) ∧
    ({ sending bound 0 with inputs := [.reset] } : State).inputs = .reset :: [] :=
  ⟨by decide, nofun, rfl, rfl, ⟨_, rfl, rfl⟩, rfl⟩

theorem witness_ResetWritesEveryElement : ({ State.reset with inputs := [.reset] } : State).inputs = .reset :: [] := rfl

/-- Handle 255 names no buffer, handle 4 is the first that names none, handle 3 names a free one. -/
theorem witness_HandleCommandsCheckTheHandle :
    commandHandle (.rxpkt 0xFF#8) = some 0xFF#8 ∧ State.reset.halted = false ∧ State.reset.nbuf ≤ (0xFF#8).toNat ∧
    State.reset.nbuf ≤ (0x04#8).toNat ∧ (0x03#8).toNat < State.reset.nbuf ∧
    (State.reset.buf (0x03#8).toNat).alloc = false := by decide

theorem witness_FaultsHaveNoOtherEffect :
    State.reset.halted = false ∧ ∃ t, exec (.txack 0x00#8) State.reset = .next t ∧ t.halted = true := ⟨rfl, _, rfl, rfl⟩

/-- CSRs 7 and 8, a command that is no CSRR, and an undecodable transaction. -/
theorem witness_HaltedEngineExecutesOnlyCsrr :
    (halted bound).halted = true ∧ (0x07#8).toNat ≤ 7 ∧
    (∀ csr : Byte, Instr.csrr 0x08#8 = .csrr csr → 7 < csr.toNat) ∧
    (∀ csr : Byte, Instr.nop = .csrr csr → 7 < csr.toNat) ∧
    decode [0xFF00000000000000#64] = .error .illegalOpcode ∧ DecodeError.illegalOpcode ≠ .notATransaction ∧
    (∀ rest, ((halted bound).offer [0x0000000000000000#64]).inputs ≠ .reset :: rest) ∧
    (∃ t, step ((halted bound).offer [0x0000000000000000#64]) = .next t) ∧
    ({ halted bound with inputs := [.reset] } : State).inputs = .reset :: [] := by
  refine ⟨rfl, by decide, fun csr h => ?_, nofun, rfl, by decide, nofun, ⟨_, rfl⟩, rfl⟩
  cases h; decide

theorem witness_StatusErrorsChangeNothing :
    Status.errNoRoute.isError = true ∧
    ∃ t, exec (.txmsg 0x09#8 .auto 0#16) State.reset = .next t ∧ t.response = some ⟨.errNoRoute, 0#32⟩ :=
  ⟨rfl, _, rfl, rfl⟩

theorem witness_ReadsHaveNoSideEffect :
    readsOnly (.winv 0x00#8) = true ∧
    ∃ t, exec (.winv 0x00#8) (withPacket State.reset 0 0 []) = .next t ∧
      t.fault = (withPacket State.reset 0 0 []).fault := ⟨rfl, _, rfl, rfl⟩

theorem witness_NoStepRemovesAnEvent : ∃ t, step { bound with inputs := [.reset] } = .next t := ⟨_, rfl⟩

theorem witness_NoPacketLeavesThroughAClosedGate :
    (closed (sending bound 0)).gate = false ∧
    ∃ t, step { closed (sending bound 0) with inputs := [.txEngine] } = .next t := ⟨rfl, _, rfl⟩

theorem witness_ConfigurationIsFrozenOnceBound :
    ((∀ csr val, Instr.nop ≠ .csrw csr val) ∧ ∃ t, exec .nop bound = .next t) ∧
    (bound.offer [0x4100000000000209#64]).cfg.bound = true ∧
    (∀ rest, (bound.offer [0x4100000000000209#64]).inputs ≠ .reset :: rest) ∧
    ∃ t, step (bound.offer [0x4100000000000209#64]) = .next t := ⟨⟨nofun, _, rfl⟩, rfl, nofun, _, rfl⟩

/-- A command that is neither, the TX engine's turn, a transaction that does not decode, and no input at all. -/
theorem witness_ContextsChangeOnlyByReceiveAndFlush :
    (∀ h, Instr.free 0x00#8 ≠ .rxpkt h) ∧ (∀ sel, Instr.free 0x00#8 ≠ .ctxflush sel) ∧
    (∃ t, exec (.free 0x00#8) (withPacket (bothSlots bound) 0 0 []) = .next t) ∧
    (∃ t, txEngineStep (bothSlots bound) = .next t) ∧
    ((∀ h, decode [0xFF00000000000000#64] ≠ .ok (.rxpkt h)) ∧
      (∀ sel, decode [0xFF00000000000000#64] ≠ .ok (.ctxflush sel)) ∧
      ∃ t, step ((bothSlots bound).offer [0xFF00000000000000#64]) = .next t) ∧
    (∀ words rest, (bothSlots bound).inputs ≠ .command words :: rest) ∧ ∃ t, step (bothSlots bound) = .next t :=
  ⟨nofun, nofun, ⟨_, rfl⟩, ⟨_, rfl⟩, ⟨nofun, nofun, ⟨_, rfl⟩⟩, nofun, ⟨_, rfl⟩⟩

/-- A failed acknowledgement while the message is at the binding; and a TXWR to the last address of TxMem. -/
theorem witness_MessageIsStableWhileSending :
    ((waiting bound 0).offer [0x2300000000000001#64]).tx.phase ≠ .idle ∧
    (∀ rest, ((waiting bound 0).offer [0x2300000000000001#64]).inputs ≠ .reset :: rest) ∧
    (∃ t, step ((waiting bound 0).offer [0x2300000000000001#64]) = .next t) ∧
    (sending bound 0).tx.phase ≠ .idle ∧ (sending bound 0).halted = false ∧
    (1023#16).toNat < (sending bound 0).params.txmemCap := ⟨by decide, nofun, ⟨_, rfl⟩, by decide, rfl, by decide⟩

/-- Lengths 249 and 248, a full arena, and free buffers 0 and 3. -/
theorem witness_AllocTakesTheLowestFreeBuffer :
    State.reset.halted = false ∧ 248 < (249#16).toNat ∧ (248#16).toNat ≤ 248 ∧
    (∀ h < (fullArena State.reset).nbuf, ((fullArena State.reset).buf h).alloc = true) ∧
    (0 < State.reset.nbuf ∧ (State.reset.buf 0).alloc = false) ∧
    let s := (fullArena State.reset).setBuf 3 (State.reset.buf 3)
    3 < s.nbuf ∧ (s.buf 3).alloc = false ∧ ∀ h < 3, (s.buf h).alloc = true := by decide

theorem witness_FreeReleasesTheBuffer :
    (fullArena bound).halted = false ∧ (fullArena bound).live 0x03#8 ∧
    ((fullArena bound).buf (0x03#8).toNat).owner = .cmd ∧
    (waiting bound 0).live 0x00#8 ∧ ((waiting bound 0).buf (0x00#8).toNat).owner = .txeng := by decide

theorem witness_ViewsReportTheCurrentBounds : bound.halted = false ∧ (fullArena bound).live 0x03#8 := by decide

/-- One past `start`, and `start` itself. -/
theorem witness_GrowFrontMovesTheStart :
    (fullArena bound).halted = false ∧ (fullArena bound).live 0x00#8 ∧
    ((fullArena bound).buf (0x00#8).toNat).start < (5#16).toNat ∧
    (4#16).toNat ≤ ((fullArena bound).buf (0x00#8).toNat).start := by decide

/-- One past CAP, and CAP itself. -/
theorem witness_GrowBackMovesTheEnd :
    let s := withPacket bound 0 248 []
    s.halted = false ∧ s.live 0x00#8 ∧ s.cap < (s.buf (0x00#8).toNat).endOff + (5#16).toNat ∧
    (s.buf (0x00#8).toNat).endOff + (4#16).toNat ≤ s.cap := by decide

theorem witness_AppendCopiesAllOrNothing :
    let s := withPacket bound 0 251 []
    s.halted = false ∧ s.live 0x00#8 ∧ s.cap < (s.buf (0x00#8).toNat).endOff + [0x01#8, 0x02#8].length ∧
    (s.buf (0x00#8).toNat).endOff + [0x01#8].length ≤ s.cap := by decide

/-- The last index of each region and the first one past it, with the window at both ends of the array. -/
theorem witness_ReadByteThroughARegion :
    let s := bound.setBuf 0 { alloc := true, owner := .cmd, start := 0, hdr := 4, endOff := 260, data := Memory.drawn 0 }
    s.halted = false ∧ s.live 0x00#8 ∧ (s.buf (0x00#8).toNat).windowOk s.params ∧
    ((s.buf (0x00#8).toNat).regionIs .hdr 4 4 ∧ (3#16).toNat < 4 ∧ 4 ≤ (4#16).toNat) ∧
    ((s.buf (0x00#8).toNat).regionIs .payload 8 252 ∧ (251#16).toNat < 252 ∧ 252 ≤ (252#16).toNat) ∧
    ((s.buf (0x00#8).toNat).regionIs .window 0 260 ∧ (259#16).toNat < 260 ∧ 260 ≤ (260#16).toNat) := by decide

theorem witness_WriteByteThroughARegion :
    let s := bound.setBuf 0 { alloc := true, owner := .cmd, start := 0, hdr := 4, endOff := 260, data := Memory.drawn 0 }
    s.halted = false ∧ s.live 0x00#8 ∧ (s.buf (0x00#8).toNat).windowOk s.params ∧
    ((s.buf (0x00#8).toNat).regionIs .hdr 4 4 ∧ (3#16).toNat < 4 ∧ 4 ≤ (4#16).toNat) ∧
    ((s.buf (0x00#8).toNat).regionIs .payload 8 252 ∧ (251#16).toNat < 252 ∧ 252 ≤ (252#16).toNat) ∧
    ((s.buf (0x00#8).toNat).regionIs .window 0 260 ∧ (259#16).toNat < 260 ∧ 260 ≤ (260#16).toNat) := by decide

theorem witness_HencAnswersTheHeader : State.reset.halted = false := rfl

theorem witness_HdecAnswersTheFields : State.reset.halted = false := rfl

theorem witness_TagfreeReleasesOneTag : (sending bound 0).halted = false ∧ (sending bound 0).tagBusy 0x09#8 0#3 = true := by
  decide

theorem witness_NopChangesNothing : State.reset.halted = false := rfl

/-- Both lengths beside a packet border, and the empty message. -/
theorem witness_ChunksCoverTheMessage :
    0 + 1 < pktCount 249 ∧ pktCount 248 = 1 ∧ pktCount 0 = 1 ∧ 0 < 249 := by decide

/-- Addresses TXMEM_CAP and TXMEM_CAP - 1, busy and idle. -/
theorem witness_TxwrWritesOneByte :
    bound.halted = false ∧ bound.params.txmemCap ≤ (1024#16).toNat ∧ (1023#16).toNat < bound.params.txmemCap ∧
    (sending bound 0).tx.phase ≠ .idle ∧ bound.tx.phase = .idle := by decide

set_option maxRecDepth 10000 in
/-- Each error in turn, the largest length, and tag 7 the only one not busy. -/
theorem witness_TxmsgStartsASend :
    (sending bound 0).halted = false ∧ (sending bound 0).tx.phase ≠ .idle ∧
    (State.reset.tx.phase = .idle ∧ State.reset.cfg.bound = false) ∧
    (bound.halted = false ∧ bound.tx.phase = .idle ∧ bound.cfg.bound = true ∧
      bound.params.txmemCap < (1025#16).toNat ∧ (1024#16).toNat ≤ bound.params.txmemCap) ∧
    (∀ g, ({ bound with busyTags := [72, 73, 74, 75, 76, 77, 78, 79] } : State).tagBusy 0x09#8 g = true) ∧
    let s : State := { bound with busyTags := [72, 73, 74, 75, 76, 77, 78] }
    s.tagBusy 0x09#8 7#3 = false ∧ ∀ u : BitVec 3, u.toNat < (7#3).toNat → s.tagBusy 0x09#8 u = true := by decide

/-- No packet at the binding; the first, the last and a failed acknowledgement. -/
theorem witness_TxackEndsOrContinuesTheSend :
    (sending bound 0).halted = false ∧ (sending bound 0).tx.phase ≠ .waitAck ∧
    ((waiting bound 1).halted = false ∧ (waiting bound 1).tx.phase = .waitAck ∧
      (waiting bound 1).tx.i + 1 ≠ (waiting bound 1).tx.n) ∧
    ((waiting bound 2).halted = false ∧ (waiting bound 2).tx.phase = .waitAck ∧
      (waiting bound 2).tx.i + 1 = (waiting bound 2).tx.n) ∧
    0xFF#8 ≠ 0x00#8 := by decide

/-- Buffer 3 is the only free one, and the last packet is next. -/
theorem witness_TxEngineSendsTheNextPacket :
    let s := { (fullArena (sending bound 2)).setBuf 3 (State.reset.buf 3) with inputs := [.txEngine] }
    s.inputs = .txEngine :: [] ∧ s.halted = false ∧ s.tx.phase = .next ∧ s.gate = true ∧
    s.tx.len ≤ s.params.txmemCap ∧ 3 < s.nbuf ∧ (s.buf 3).alloc = false ∧ ∀ h < 3, (s.buf h).alloc = true := by decide

/-- Idle; held; closed under FAIL; no free buffer. -/
theorem witness_TxEngineEndsOrHoldsTheMessage :
    ({ bound with inputs := [.txEngine] } : State).inputs = .txEngine :: [] ∧ bound.halted = false ∧
    bound.tx.phase ≠ .next ∧
    ((blocking (closed (sending bound 0))).halted = false ∧ (blocking (closed (sending bound 0))).gate = false ∧
      (blocking (closed (sending bound 0))).cfg.gatePolicy = .block) ∧
    ((closed (sending bound 0)).tx.phase = .next ∧ (closed (sending bound 0)).gate = false ∧
      (closed (sending bound 0)).cfg.gatePolicy = .fail) ∧
    ((fullArena (sending bound 0)).tx.phase = .next ∧ (fullArena (sending bound 0)).gate = true ∧
      ∀ h < (fullArena (sending bound 0)).nbuf, ((fullArena (sending bound 0)).buf h).alloc = true) := by decide

theorem witness_RxpktConsumesEveryPacket :
    (waiting bound 0).halted = false ∧ (waiting bound 0).live 0x00#8 ∧
    ((waiting bound 0).buf (0x00#8).toNat).owner = .txeng ∧ (fullArena bound).rxReady 0x03#8 := by decide

set_option maxRecDepth 20000 in
/-- A wrong version; a destination that is not ours, and an unbound engine; a payload of 249 bytes. -/
theorem witness_RxFiltersDropAndLog :
    ((received [2#8, 8#8, 9#8, 0xC8#8]).rxReady 0x00#8 ∧ ((received [2#8, 8#8, 9#8, 0xC8#8]).rxHeader 0x00#8).ver ≠ 0x01#8) ∧
    (let s := received [1#8, 7#8, 9#8, 0xC8#8];
      s.rxReady 0x00#8 ∧ (s.rxHeader 0x00#8).ver = 0x01#8 ∧
      ¬(s.cfg.bound = true ∧
        ((s.rxHeader 0x00#8).dest = s.cfg.localEid ∨ (s.rxHeader 0x00#8).dest ∈ s.params.acceptExtra))) ∧
    (let s := withPacket State.reset 0 0 [1#8, 0#8, 9#8, 0xC8#8];
      s.rxReady 0x00#8 ∧ (s.rxHeader 0x00#8).ver = 0x01#8 ∧ ¬(s.cfg.bound = true)) ∧
    (let s := withPacket bound 0 249 [1#8, 8#8, 9#8, 0xC8#8];
      s.rxReady 0x00#8 ∧ (s.rxHeader 0x00#8).ver = 0x01#8 ∧ s.cfg.bound = true ∧
      (s.rxHeader 0x00#8).dest = s.cfg.localEid ∧ 248 < (s.rxPayload 0x00#8).length) := by decide

set_option maxRecDepth 20000 in
/-- A whole message of 248 bytes; a first packet with no slot free, with slot 1 free, and with its own key's slot. -/
theorem witness_RxFirstPacketStartsAContext :
    (let s := withPacket bound 0 248 [1#8, 8#8, 9#8, 0xC8#8];
      s.rxPasses 0x00#8 ∧ s.contextInv ∧ (s.rxHeader 0x00#8).ctl.som = true ∧ (s.rxHeader 0x00#8).ctl.eom = true) ∧
    (let s := bothSlots (received [1#8, 8#8, 9#8, 0x83#8]);
      s.rxPasses 0x00#8 ∧ s.contextInv ∧ (s.rxHeader 0x00#8).ctl.som = true ∧ (s.rxHeader 0x00#8).ctl.eom = false ∧
      ∀ k < s.nctx, (s.ctx k).valid = true ∧ ¬s.holds k 0x09#8 3#3) ∧
    (let s := reassembling (received [1#8, 8#8, 9#8, 0x83#8]) 1;
      s.rxPasses 0x00#8 ∧ s.contextInv ∧ 1 < s.nctx ∧ (s.ctx 1).valid = false ∧
      ∀ j < 1, (s.ctx j).valid = true ∧ ¬s.holds j 0x09#8 3#3) ∧
    (let s := bothSlots (received [1#8, 8#8, 9#8, 0x82#8]);
      s.rxPasses 0x00#8 ∧ s.contextInv ∧ s.holds 1 0x09#8 2#3 ∧
      ∀ j < 1, (s.ctx j).valid = true ∧ ¬s.holds j 0x09#8 2#3) := by
  refine ⟨?_, ?_, ?_, ?_⟩ <;> decide

set_option maxRecDepth 20000 in
/-- No context; a SEQ gap; one byte past MAX_MSG_LEN; exactly MAX_MSG_LEN, with EOM. -/
theorem witness_RxNextPacketExtendsItsContext :
    (let s := received [1#8, 8#8, 9#8, 0x19#8];
      s.rxPasses 0x00#8 ∧ s.contextInv ∧ (s.rxHeader 0x00#8).ctl.som = false ∧ s.noContext 0x09#8 1#3) ∧
    (let s := reassembling (received [1#8, 8#8, 9#8, 0x29#8]) 0;
      s.rxPasses 0x00#8 ∧ s.contextInv ∧ s.holds 0 0x09#8 1#3 ∧ (s.rxHeader 0x00#8).ctl.seq ≠ (s.ctx 0).exp) ∧
    (let s := reassembling (received [1#8, 8#8, 9#8, 0x19#8, 0xAA#8]) 1024;
      s.rxPasses 0x00#8 ∧ s.contextInv ∧ s.holds 0 0x09#8 1#3 ∧ (s.rxHeader 0x00#8).ctl.seq = (s.ctx 0).exp ∧
      s.params.maxMsgLen < (s.ctx 0).len + (s.rxPayload 0x00#8).length) ∧
    (let s := reassembling (received [1#8, 8#8, 9#8, 0x59#8, 0xAA#8]) 1023;
      s.rxPasses 0x00#8 ∧ s.contextInv ∧ s.holds 0 0x09#8 1#3 ∧ (s.rxHeader 0x00#8).ctl.seq = (s.ctx 0).exp ∧
      (s.rxHeader 0x00#8).ctl.eom = true ∧ (s.ctx 0).len + (s.rxPayload 0x00#8).length ≤ s.params.maxMsgLen) := by
  refine ⟨?_, ?_, ?_, ?_⟩ <;> decide

theorem witness_EveryDropIsLoggedOnce :
    (∃ t, exec (.rxpkt 0x00#8) (received [2#8, 8#8, 9#8, 0xC8#8]) = .next t ∧
      t.response = some ⟨.rxDropVersion, 0#32⟩) ∧ Status.rxDropVersion.isDrop = true ∧
    (∃ t, exec (.rxpkt 0x00#8) (received [1#8, 8#8, 9#8, 0xC8#8]) = .next t ∧
      t.response = some ⟨.rxDelivered, 0#32⟩) ∧ Status.rxDelivered.isDrop = false :=
  ⟨⟨_, rfl, by decide⟩, rfl, ⟨_, rfl, by decide⟩, rfl⟩

/-- A key with no context, and the key of the last slot. -/
theorem witness_CtxflushDestroysContexts :
    (bothSlots bound).halted = false ∧ (bothSlots bound).noContext 0x09#8 3#3 ∧ (bothSlots bound).contextInv ∧
    (bothSlots bound).holds 1 0x09#8 2#3 := by decide

set_option maxRecDepth 20000 in
/-- The longest message that MAX_MSG_LEN allows, with a free slot. -/
theorem witness_FragmentsReassembleToTheMessage :
    (reassembling bound 1).Inv ∧ (reassembling bound 1).accepts 0x08#8 = true ∧
    (List.replicate 1024 0xFF#8).length ≤ (reassembling bound 1).params.maxMsgLen ∧
    ∃ k < (reassembling bound 1).nctx,
      ((reassembling bound 1).ctx k).valid = false ∨ (reassembling bound 1).holds k 0x09#8 2#3 := by
  refine ⟨⟨?_, ?_, ?_, ?_, ?_, ?_, ?_⟩, ?_, ?_, 1, ?_⟩ <;> decide

theorem witness_CsrrAnswersTheRegister : 7 < (0x08#8).toNat ∧ State.reset.halted = false := by decide

theorem witness_CsrwRegistersTheBus :
    bound.halted = false ∧ bound.cfg.bound = true ∧ State.reset.halted = false ∧ State.reset.cfg.bound = false := by decide

/-- CSRs 2, 7 and 8. -/
theorem witness_CsrwWritesTheGateAndNoReadOnlyRegister :
    State.reset.halted = false ∧ 2 ≤ (0x02#8).toNat ∧ (0x07#8).toNat ≤ 7 ∧ 7 < (0x08#8).toNat := by decide

/-- Buffer 3 is the only free one: the last packet's turn, and all six turns of the message from its start. -/
theorem witness_SendEmitsThePacketsOfTheMessage :
    (let s := { (fullArena (sending bound 2)).setBuf 3 (State.reset.buf 3) with inputs := [.txEngine] };
      s.inputs = .txEngine :: [] ∧ s.halted = false ∧ s.tx.phase = .next ∧ s.gate = true ∧
      s.tx.len ≤ s.params.txmemCap ∧ s.tx.n = pktCount s.tx.len ∧ s.tx.i < s.tx.n ∧ s.lowestFree 3) ∧
    (let s := { (fullArena (sending bound 0)).setBuf 3 (State.reset.buf 3) with inputs := sendTurns 3 };
      s.Inv ∧ s.inputs = sendTurns s.tx.n ++ [] ∧ s.halted = false ∧ s.tx.phase = .next ∧ s.tx.i = 0 ∧ s.gate = true ∧
      s.lowestFree 3) := by
  refine ⟨by decide, ⟨?_, ?_, ?_, ?_, ?_, ?_, ?_⟩, ?_⟩ <;> decide

set_option maxRecDepth 20000 in
/-- The longest message that MAX_MSG_LEN allows, with a free slot, on a running engine with a free buffer; and a run: the one
packet of a message of one byte in a ready buffer. -/
theorem witness_ReceivedPacketsDeliverTheMessage :
    ((reassembling bound 1).Inv ∧ (reassembling bound 1).accepts 0x08#8 = true ∧
      (List.replicate 1024 0xFF#8).length ≤ (reassembling bound 1).params.maxMsgLen ∧
      (∃ k < (reassembling bound 1).nctx,
        ((reassembling bound 1).ctx k).valid = false ∨ (reassembling bound 1).holds k 0x09#8 2#3) ∧
      (reassembling bound 1).halted = false ∧
      ∃ h < (reassembling bound 1).nbuf, ((reassembling bound 1).buf h).alloc = false) ∧
    ∃ t, rxRun (packetsOf 0x08#8 0x09#8 0#3 [0xAA#8]) bound t := by
  constructor
  · refine ⟨⟨?_, ?_, ?_, ?_, ?_, ?_, ?_⟩, ?_, ?_, ⟨1, ?_⟩, ?_, 0, ?_⟩ <;> decide
  · exact ⟨_, received [1#8, 8#8, 9#8, 0xC8#8, 0xAA#8], _, 0x00#8, ⟨rfl, rfl, rfl, rfl⟩, by decide, by decide, rfl, rfl⟩

end Sys2Proof.Tests
end

section
/-! PROOF. The invariant right after reset: the reset value of each element of 10_state.md R40 meets its part of it. -/

namespace Sys2Proof.Machine

/-! ### What stands in the state right after reset -/

theorem State.mem_bufs_afterReset {p : Config.Params} {draw : Nat} {b : Buffer} :
    b ∈ (State.afterReset p draw).bufs ↔ ∃ h < p.nbuf, Buffer.afterReset p (draw + h) = b := by
  simp [State.afterReset]

theorem State.mem_ctxs_afterReset {p : Config.Params} {draw : Nat} {c : Context} :
    c ∈ (State.afterReset p draw).ctxs ↔ ∃ k < p.nctx, Context.afterReset (draw + p.nbuf + k) = c := by
  simp [State.afterReset]

@[simp] theorem State.afterReset_nbuf (p : Config.Params) (draw : Nat) : (State.afterReset p draw).nbuf = p.nbuf := by
  simp [State.nbuf, State.afterReset]

@[simp] theorem State.afterReset_nctx (p : Config.Params) (draw : Nat) : (State.afterReset p draw).nctx = p.nctx := by
  simp [State.nctx, State.afterReset]

theorem State.afterReset_buf {p : Config.Params} {draw h : Nat} (hh : h < p.nbuf) :
    (State.afterReset p draw).buf h = Buffer.afterReset p (draw + h) := by
  simp [State.buf, State.afterReset, hh]

/-! ### The parts of the invariant -/

/-- A free buffer's bounds are not asked for (10_state.md R31). -/
theorem Buffer.afterReset_windowOk (p : Config.Params) (draw : Nat) : (Buffer.afterReset p draw).windowOk p :=
  fun halloc => nomatch halloc

/-- A context that is not valid holds no live key (10_state.md R34). -/
theorem Context.afterReset_apart (draw : Nat) (d : Context) : (Context.afterReset draw).apart d :=
  fun hvalid => nomatch hvalid

theorem State.afterReset_arenaInv (p : Config.Params) (draw : Nat) : (State.afterReset p draw).arenaInv := by
  refine ⟨State.afterReset_nbuf p draw, fun b hb => ?_⟩
  obtain ⟨h, -, rfl⟩ := State.mem_bufs_afterReset.mp hb
  exact ⟨Buffer.afterReset_windowOk p (draw + h), Memory.drawn_within (draw + h) p.cap⟩

theorem State.afterReset_contextInv (p : Config.Params) (draw : Nat) : (State.afterReset p draw).contextInv := by
  refine ⟨State.afterReset_nctx p draw, fun c hc => ?_, List.pairwise_of_forall_mem_list fun c hc d _ => ?_⟩
  · obtain ⟨k, -, rfl⟩ := State.mem_ctxs_afterReset.mp hc
    exact ⟨Nat.zero_le p.maxMsgLen, Memory.drawn_within (draw + p.nbuf + k) p.maxMsgLen⟩
  · obtain ⟨k, -, rfl⟩ := State.mem_ctxs_afterReset.mp hc
    exact Context.afterReset_apart (draw + p.nbuf + k) d

theorem State.afterReset_tagInv (p : Config.Params) (draw : Nat) : (State.afterReset p draw).tagInv :=
  ⟨List.Pairwise.nil, nofun⟩

/-- The TX engine is idle with no message, and every buffer is CMD's. `Tx.cur` is 0, so buffer 0 must exist: that is
NBUF ≥ 1 of 00_scope.md R7. -/
theorem State.afterReset_txInv {p : Config.Params} (draw : Nat) (hnbuf : 1 ≤ p.nbuf) :
    (State.afterReset p draw).txInv := by
  have hidle : (State.afterReset p draw).tx.phase = .idle := rfl
  have hcur : (State.afterReset p draw).tx.cur < (State.afterReset p draw).nbuf := by
    rw [State.afterReset_nbuf]; exact hnbuf
  have howner : ∀ h < (State.afterReset p draw).nbuf, ((State.afterReset p draw).buf h).owner = .cmd := by
    intro h hh
    rw [State.afterReset_nbuf] at hh
    rw [State.afterReset_buf hh]
    rfl
  refine ⟨Nat.le_refl 0, Nat.zero_le 65535, Nat.zero_le p.txmemCap, hcur, fun hactive => absurd hidle hactive, ?_, ?_⟩
  · intro hwait
    rw [hidle] at hwait
    contradiction
  · intro h hh htxeng
    rw [howner h hh] at htxeng
    contradiction

theorem State.afterReset_faultInv (p : Config.Params) (draw : Nat) : (State.afterReset p draw).faultInv :=
  ⟨nofun, fun hcause => absurd rfl hcause⟩

theorem State.afterReset_inv {p : Config.Params} (draw : Nat) (hlegal : p.legal) : (State.afterReset p draw).Inv := by
  have hnbuf : 1 ≤ p.nbuf := hlegal.1
  exact ⟨hlegal, State.afterReset_arenaInv p draw, State.afterReset_contextInv p draw, State.afterReset_tagInv p draw,
    Memory.drawn_within _ p.txmemCap, State.afterReset_txInv draw hnbuf, State.afterReset_faultInv p draw⟩

/-- The reference configuration meets the constraints of 00_scope.md R7. -/
theorem legal_reference : Config.Params.reference.legal := by decide

/-- Settles O10, from the lemma of each part of the invariant; `State.reset` is the reference engine's, which is legal. -/
theorem resetMeetsTheInvariant : Obligations.ResetMeetsTheInvariant :=
  ⟨fun _ draw hlegal => State.afterReset_inv draw hlegal, State.afterReset_inv 0 legal_reference⟩

end Sys2Proof.Machine
end

section
/-! PROOF. What a step can do, said once: each command that answers a next state has one of the effects listed here, and so
has the TX engine's turn and the step. What every step keeps is then proved by the cases of these lists. -/

namespace Sys2Proof.Machine

/-! ### The next states of a command -/

/-- The packet awaiting acknowledgement given back: its buffer is free and CMD's (43_fragmentation.md R206). -/
def State.retirePacket (s : State) : State :=
  s.setBuf s.tx.cur { s.buf s.tx.cur with alloc := false, owner := .cmd }

/-- The packet given back and counted as sent (43_fragmentation.md R206). -/
def State.ackPacket (s : State) : State :=
  { s.retirePacket with tx := { s.tx with i := s.tx.i + 1 } }

/-- `CommandEffect i s t`: command `i`, run at `s`, can answer the next state `t`, by one of its rule's ways of going on. -/
inductive CommandEffect : Instr → State → State → Prop where
  /-- A response and no other effect: a value read, a status error, or FAULTED while halted. -/
  | answered {i s} (st : Status) (data : Word32) : CommandEffect i s (s.respond st data)
  /-- A recorded fault (60_exceptions.md R291). -/
  | faulted {i s} (c : Cause) (info : Byte) (hc : c ≠ .noFault) : CommandEffect i s (s.raise i.opcode.code c info)
  /-- ALLOC (41_arena.md R131). -/
  | allocated {s len} (h : Nat) (hlen : len.toNat ≤ Config.mtu) (hfree : s.freeHandle = some h) :
      CommandEffect (.alloc len) s ((s.allocBuffer h .cmd len.toNat).respond .ok (BitVec.ofNat 32 h))
  /-- FREE (41_arena.md R132). -/
  | freed {s h} (hl : s.live h) (ho : (s.buf h.toNat).owner = .cmd) :
      CommandEffect (.free h) s ((s.consumed h).respond .ok 0#32)
  /-- GROWF (41_arena.md R137). -/
  | grewFront {s h n} (hl : s.live h) (hn : n.toNat ≤ (s.buf h.toNat).start) :
      CommandEffect (.growf h n) s
        ((s.setBuf h.toNat { s.buf h.toNat with start := (s.buf h.toNat).start - n.toNat }).respond .ok 0#32)
  /-- GROWB (41_arena.md R138). -/
  | grewBack {s h n} (hl : s.live h) (hn : (s.buf h.toNat).endOff + n.toNat ≤ s.cap) :
      CommandEffect (.growb h n) s
        ((s.setBuf h.toNat { s.buf h.toNat with endOff := (s.buf h.toNat).endOff + n.toNat }).respond .ok 0#32)
  /-- APPEND (41_arena.md R139). -/
  | appended {s h data} (hl : s.live h) (hn : (s.buf h.toNat).endOff + data.length ≤ s.cap) :
      CommandEffect (.append h data) s
        ((s.setBuf h.toNat { s.buf h.toNat with
          data := (s.buf h.toNat).data.writeN (s.buf h.toNat).endOff data
          endOff := (s.buf h.toNat).endOff + data.length }).respond .ok 0#32)
  /-- WR8 (41_arena.md R141). -/
  | byteWritten {s h rg idx d} (base len : Nat) (hl : s.live h) (hreg : (s.buf h.toNat).region rg = some (base, len))
      (hidx : idx.toNat < len) :
      CommandEffect (.wr8 h rg idx d) s
        ((s.setBuf h.toNat { s.buf h.toNat with
          data := (s.buf h.toNat).data.write (base + idx.toNat) d }).respond .ok 0#32)
  /-- TXWR (43_fragmentation.md R200). -/
  | txByteWritten {s addr d} (ha : addr.toNat < s.params.txmemCap) (hidle : s.tx.phase = .idle) :
      CommandEffect (.txwr addr d) s (({ s with txMem := s.txMem.write addr.toNat d } : State).respond .ok 0#32)
  /-- TXMSG with the tag it names (43_fragmentation.md R201). -/
  | startedExplicit {s dest t len} (hidle : s.tx.phase = .idle) (hlen : len.toNat ≤ s.params.txmemCap) :
      CommandEffect (.txmsg dest (.explicit t) len) s
        ((s.startTx dest t false len.toNat).respond .ok (t.setWidth 32))
  /-- TXMSG with an allocated tag (43_fragmentation.md R193, R201). -/
  | startedAuto {s dest len} (t : BitVec 3) (hidle : s.tx.phase = .idle) (hlen : len.toNat ≤ s.params.txmemCap) :
      CommandEffect (.txmsg dest .auto len) s
        (((s.takeTag dest t).startTx dest t true len.toNat).respond .ok (t.setWidth 32))
  /-- TAGFREE (43_fragmentation.md R208). -/
  | tagFreed {s dest tag} : CommandEffect (.tagfree dest tag) s ((s.releaseTag dest tag).respond .ok 0#32)
  /-- TXACK of a failure (43_fragmentation.md R206). -/
  | sendFailed {s st} (hw : s.tx.phase = .waitAck) :
      CommandEffect (.txack st) s ((s.retirePacket.finish .errBinding).respond .ok 0#32)
  /-- TXACK of the message's last packet (43_fragmentation.md R206). -/
  | messageSent {s st} (hw : s.tx.phase = .waitAck) (hlast : s.tx.i + 1 = s.tx.n) :
      CommandEffect (.txack st) s ((s.ackPacket.finish .ok).respond .ok 0#32)
  /-- TXACK of an earlier packet (43_fragmentation.md R206). -/
  | packetSent {s st} (hw : s.tx.phase = .waitAck) (hmore : s.tx.i + 1 ≠ s.tx.n) :
      CommandEffect (.txack st) s
        (({ s.ackPacket with tx := { s.ackPacket.tx with phase := .next } } : State).respond .ok 0#32)
  /-- RXPKT (44_reassembly.md R230). -/
  | received {s h} (hl : s.live h) (ho : (s.buf h.toNat).owner = .cmd) :
      CommandEffect (.rxpkt h) s (reassemble (s.consumed h) (s.rxHeader h) (s.rxPayload h))
  /-- CTXFLUSH of every context (44_reassembly.md R238). -/
  | flushedAll {s} :
      CommandEffect (.ctxflush .all) s
        (({ s with ctxs := s.ctxs.map (fun c => { c with valid := false }) } : State).respond .ok
          (BitVec.ofNat 32 s.liveContexts))
  /-- CTXFLUSH of one key that has a context (44_reassembly.md R238). -/
  | flushedKey {s src tag} (k : Nat) (hk : s.lookup src tag = some k) :
      CommandEffect (.ctxflush (.key src tag)) s ((s.destroyCtx k).respond .ok 1#32)
  /-- CSRW of CFG (45_control.md R274). -/
  | wroteCfg {s csr val} (h0 : csr.toNat = 0) : CommandEffect (.csrw csr val) s (writeCfg val s)
  /-- CSRW of GATE (45_control.md R276). -/
  | wroteGate {s csr val} (h1 : csr.toNat = 1) : CommandEffect (.csrw csr val) s (writeGate val s)

/-! ### The guards that commands share -/

section Guards

variable {i : Instr} {s t : State}

theorem effect_of_whenRunning {k : Result} (h : whenRunning s k = .next t)
    (hk : k = .next t → CommandEffect i s t) : CommandEffect i s t := by
  obtain ⟨-, rfl⟩ | ⟨-, hrun⟩ := whenRunning_next h
  · exact .answered .faulted 0#32
  · exact hk hrun

theorem effect_of_withHandle {h : Byte} {k : Buffer → Result} (heq : withHandle s i.opcode h k = .next t)
    (hk : s.live h → k (s.buf h.toNat) = .next t → CommandEffect i s t) : CommandEffect i s t := by
  obtain ⟨-, e⟩ | ⟨-, -, e⟩ | ⟨-, -, -, e⟩ | ⟨-, hl, e⟩ := withHandle_cases s i.opcode h k <;> rw [e] at heq
  · cases heq; exact .answered .faulted 0#32
  · cases heq; exact .faulted .badHandle h (by decide)
  · cases heq; exact .faulted .notAllocated h (by decide)
  · exact hk hl heq

/-- The commands that answer a view of their buffer. -/
theorem effect_of_view {h : Byte} {view : Buffer → Word32}
    (heq : withHandle s i.opcode h (fun b => .next (s.respond .ok (view b))) = .next t) : CommandEffect i s t :=
  effect_of_withHandle heq fun _ hview => by cases hview; exact .answered _ _

theorem effect_of_withOwnHandle {h : Byte} {k : Buffer → Result} (heq : withOwnHandle s i.opcode h k = .next t)
    (hk : s.live h → (s.buf h.toNat).owner = .cmd → k (s.buf h.toNat) = .next t → CommandEffect i s t) :
    CommandEffect i s t := by
  refine effect_of_withHandle heq fun hl hlive => ?_
  cases ho : (s.buf h.toNat).owner with
  | txeng =>
    rw [if_pos ho] at hlive
    cases hlive
    exact .faulted .owned h (by decide)
  | cmd =>
    rw [if_neg (by rw [ho]; decide)] at hlive
    exact hk hl ho hlive

theorem effect_of_withByte {h : Byte} {rg : Region} {idx : BitVec 16} {k : Nat → Result}
    (heq : withByte s i.opcode h rg idx k = .next t)
    (hk : ∀ base len, s.live h → (s.buf h.toNat).region rg = some (base, len) → idx.toNat < len →
      k (base + idx.toNat) = .next t → CommandEffect i s t) : CommandEffect i s t := by
  refine effect_of_withHandle heq fun hl hlive => ?_
  cases hreg : (s.buf h.toNat).region rg with
  | none =>
    rw [hreg] at hlive
    cases hlive
    exact .faulted .badRegion h (by decide)
  | some r =>
    obtain ⟨base, len⟩ := r
    simp only [hreg] at hlive
    split at hlive
    · cases hlive
      exact .faulted .outOfBounds h (by decide)
    · next hidx => exact hk base len hl hreg (Nat.lt_of_not_le hidx) hlive

end Guards

/-! ### Each command -/

section Commands

variable {s t : State}

theorem execAlloc_effect {len : BitVec 16} (h : execAlloc len s = .next t) : CommandEffect (.alloc len) s t := by
  refine effect_of_whenRunning h fun h => ?_
  split at h
  · cases h; exact .answered _ _
  · next hlen =>
    split at h
    · cases h; exact .answered _ _
    · next b hfree => cases h; exact .allocated b (Nat.le_of_not_lt hlen) hfree

theorem execFree_effect {h : Byte} (heq : execFree h s = .next t) : CommandEffect (.free h) s t :=
  effect_of_withOwnHandle (i := .free h) heq fun hl ho e => by cases e; exact .freed hl ho

theorem execGrowf_effect {h : Byte} {n : BitVec 16} (heq : execGrowf h n s = .next t) :
    CommandEffect (.growf h n) s t := by
  refine effect_of_withHandle (i := .growf h n) heq fun hl e => ?_
  split at e
  · cases e; exact .answered _ _
  · next hn => cases e; exact .grewFront hl (Nat.le_of_not_lt hn)

theorem execGrowb_effect {h : Byte} {n : BitVec 16} (heq : execGrowb h n s = .next t) :
    CommandEffect (.growb h n) s t := by
  refine effect_of_withHandle (i := .growb h n) heq fun hl e => ?_
  split at e
  · cases e; exact .answered _ _
  · next hn => cases e; exact .grewBack hl (Nat.le_of_not_lt hn)

theorem State.setBuf_setBuf (h : Nat) (b c : Buffer) : (s.setBuf h b).setBuf h c = s.setBuf h c := by
  simp [State.setBuf]

theorem execAppend_effect {h : Byte} {data : List Byte} (heq : execAppend h data s = .next t) :
    CommandEffect (.append h data) s t := by
  refine effect_of_withHandle (i := .append h data) heq fun hl e => ?_
  split at e
  · cases e; exact .answered _ _
  · next hn =>
    have hfit := Nat.le_of_not_lt hn
    rw [State.arenaWriteN_eq hl.1 hl.2 hfit] at e
    simp only [State.setBuf_buf_same _ hl.1, State.setBuf_setBuf] at e
    cases e
    exact .appended hl hfit

theorem execRd8_effect {h : Byte} {rg : Region} {idx : BitVec 16} (heq : execRd8 h rg idx s = .next t) :
    CommandEffect (.rd8 h rg idx) s t := by
  refine effect_of_withByte (i := .rd8 h rg idx) heq fun base len _ _ _ e => ?_
  split at e
  · cases e
  · cases e; exact .answered _ _

theorem execWr8_effect {h : Byte} {rg : Region} {idx : BitVec 16} {d : Byte} (heq : execWr8 h rg idx d s = .next t) :
    CommandEffect (.wr8 h rg idx d) s t := by
  refine effect_of_withByte (i := .wr8 h rg idx d) heq fun base len hl hreg hidx e => ?_
  split at e
  · cases e
  · next hw =>
    obtain ⟨-, rfl⟩ := State.arenaWrite_some hw
    cases e
    exact .byteWritten base len hl hreg hidx

theorem State.busy_eq_false : s.busy = false ↔ s.tx.phase = .idle := by
  simp [State.busy]

theorem execTxwr_effect {addr : BitVec 16} {d : Byte} (h : execTxwr addr d s = .next t) :
    CommandEffect (.txwr addr d) s t := by
  refine effect_of_whenRunning h fun h => ?_
  split at h
  · cases h; exact .faulted .outOfBounds _ (by decide)
  · next ha =>
    split at h
    · cases h; exact .answered _ _
    · next hbusy =>
      have haddr := Nat.lt_of_not_le ha
      rw [State.txMemWrite_eq haddr] at h
      cases h
      exact .txByteWritten haddr (State.busy_eq_false.mp (Bool.eq_false_of_not_eq_true hbusy))

theorem execTxmsg_effect {dest : Byte} {mode : TagMode} {len : BitVec 16} (h : execTxmsg dest mode len s = .next t) :
    CommandEffect (.txmsg dest mode len) s t := by
  refine effect_of_whenRunning h fun h => ?_
  split at h
  · cases h; exact .answered _ _
  next hbusy =>
  split at h
  · cases h; exact .answered _ _
  split at h
  · cases h; exact .answered _ _
  next hlen =>
  have hidle := State.busy_eq_false.mp (Bool.eq_false_of_not_eq_true hbusy)
  cases mode with
  | explicit tag => cases h; exact .startedExplicit hidle (Nat.le_of_not_lt hlen)
  | auto =>
    simp only at h
    split at h
    · cases h; exact .answered _ _
    · next tag _ => cases h; exact .startedAuto tag hidle (Nat.le_of_not_lt hlen)

theorem execTxack_effect {st : Byte} (h : execTxack st s = .next t) : CommandEffect (.txack st) s t := by
  refine effect_of_whenRunning h fun h => ?_
  split at h
  · next hwait =>
    have hw : s.tx.phase = .waitAck := by simpa [State.waitingAck] using hwait
    simp only at h
    split at h
    · split at h
      · next hlast => cases h; exact .messageSent hw hlast
      · next hmore => cases h; exact .packetSent hw hmore
    · cases h; exact .sendFailed hw
  · cases h; exact .faulted .unexpectedAck _ (by decide)

/-- What a read primitive answers is the run of bytes. -/
theorem State.arenaReadN_some {h off n : Nat} {bs : List Byte} (hr : s.arenaReadN h off n = some bs) :
    (s.buf h).data.readN off n = bs := by
  unfold State.arenaReadN at hr
  split at hr
  · simpa using hr
  · simp at hr

theorem execRxpkt_effect {h : Byte} (heq : execRxpkt h s = .next t) : CommandEffect (.rxpkt h) s t := by
  refine effect_of_withOwnHandle (i := .rxpkt h) heq fun hl ho e => ?_
  split at e
  · next hb pay hhdr hpay =>
    cases e
    rw [← State.arenaReadN_some hhdr, ← State.arenaReadN_some hpay]
    exact .received hl ho
  · cases e

theorem execCtxflush_effect {sel : FlushSel} (h : execCtxflush sel s = .next t) :
    CommandEffect (.ctxflush sel) s t := by
  refine effect_of_whenRunning h fun h => ?_
  cases sel with
  | all => cases h; exact .flushedAll
  | key src tag =>
    simp only at h
    split at h
    · cases h; exact .answered _ _
    · next k hk => cases h; exact .flushedKey k hk

theorem execCsrr_effect {csr : Byte} (h : execCsrr csr s = .next t) : CommandEffect (.csrr csr) s t := by
  unfold execCsrr at h
  split at h
  · cases h; exact .answered _ _
  · exact effect_of_whenRunning h fun h => by cases h; exact .faulted .badCsr _ (by decide)

theorem execCsrw_effect {csr : Byte} {val : Word32} (h : execCsrw csr val s = .next t) :
    CommandEffect (.csrw csr val) s t := by
  refine effect_of_whenRunning h fun h => ?_
  split at h
  · next h0 => cases h; exact .wroteCfg h0
  · next h1 => cases h; exact .wroteGate h1
  · split at h
    · cases h; exact .answered _ _
    · cases h; exact .faulted .badCsr _ (by decide)

/-- Every command that answers a next state has one of its effects. -/
theorem exec_effect {i : Instr} (h : exec i s = .next t) : CommandEffect i s t := by
  cases i with
  | alloc len => exact execAlloc_effect h
  | free b => exact execFree_effect h
  | growf b n => exact execGrowf_effect h
  | growb b n => exact execGrowb_effect h
  | append b data => exact execAppend_effect h
  | rd8 b rg idx => exact execRd8_effect h
  | wr8 b rg idx d => exact execWr8_effect h
  | txwr addr d => exact execTxwr_effect h
  | txmsg dest mode len => exact execTxmsg_effect h
  | txack st => exact execTxack_effect h
  | rxpkt b => exact execRxpkt_effect h
  | ctxflush sel => exact execCtxflush_effect h
  | csrr csr => exact execCsrr_effect h
  | csrw csr val => exact execCsrw_effect h
  | tagfree dest tag => exact effect_of_whenRunning h fun h => by cases h; exact .tagFreed
  | nop | henc _ _ _ | hdec _ => exact effect_of_whenRunning h fun h => by cases h; exact .answered _ _
  | hdrv b => exact effect_of_view (i := .hdrv b) (show execHdrv b s = .next t from h)
  | payv b => exact effect_of_view (i := .payv b) (show execPayv b s = .next t from h)
  | size b => exact effect_of_view (i := .size b) (show execSize b s = .next t from h)
  | winv b => exact effect_of_view (i := .winv b) (show execWinv b s = .next t from h)

end Commands

end Sys2Proof.Machine
end

section
/-! PROOF. What Reassemble, the TX engine's turn and the whole step can do, said once, beside the effects of the
commands. -/

namespace Sys2Proof.Machine

/-! ### Reassemble (44_reassembly.md R231 to R235) -/

/-- `ContextEffect src tag pay s u`: a packet of the key (src, tag) with payload `pay`, received at `s`, leaves the contexts
of `u`, before its event and its response. -/
inductive ContextEffect (src : Byte) (tag : BitVec 3) (pay : List Byte) (s : State) : State → Prop where
  /-- The contexts are as they were. -/
  | kept : ContextEffect src tag pay s s
  /-- The key's context is destroyed (R233, R234). -/
  | destroyed (k : Nat) (hk : s.lookup src tag = some k) : ContextEffect src tag pay s (s.destroyCtx k)
  /-- A context is opened for the key, after any prior one is destroyed (R233). -/
  | opened (k : Nat) (exp : BitVec 2) (hfree : (s.destroyKey src tag).freeSlot = some k)
      (hpay : pay.length ≤ Config.mtu) :
      ContextEffect src tag pay s ((s.destroyKey src tag).setCtx k
        { valid := true, src := src, tag := tag, exp := exp, len := pay.length,
          acc := ((s.destroyKey src tag).ctx k).acc.writeN 0 pay })
  /-- The payload is appended to the key's context (R234). -/
  | extended (k : Nat) (hk : s.lookup src tag = some k) (hfit : (s.ctx k).len + pay.length ≤ s.params.maxMsgLen) :
      ContextEffect src tag pay s (s.setCtx k ((s.ctx k).appended pay))
  /-- The payload is appended to the key's context and the message is complete (R234). -/
  | completed (k : Nat) (hk : s.lookup src tag = some k) (hfit : (s.ctx k).len + pay.length ≤ s.params.maxMsgLen) :
      ContextEffect src tag pay s (s.setCtx k { (s.ctx k).appended pay with valid := false })

/-- `PacketAnswer u t`: `t` is `u` with a packet accepted, dropped with its event, or delivered with its event
(R231, R235). -/
inductive PacketAnswer (u : State) : State → Prop where
  | accepted : PacketAnswer u (u.respond .rxAccepted 0#32)
  | dropped (reason : Status) (src : Byte) (tag : BitVec 3) : PacketAnswer u (dropPacket u reason src tag)
  | delivered (src : Byte) (bytes : List Byte) : PacketAnswer u (deliverMessage u src bytes)

section Reassemble

variable (s : State) (src : Byte) (ctl : Control) (pay : List Byte)

theorem destroyKey_effect (tag : BitVec 3) : ContextEffect src tag pay s (s.destroyKey src tag) := by
  unfold State.destroyKey
  split
  · exact .kept
  · next k hk => exact .destroyed k hk

theorem reassembleFirst_effect (hpay : pay.length ≤ Config.mtu) :
    ∃ u, ContextEffect src ctl.tag pay s u ∧ PacketAnswer u (reassembleFirst s src ctl pay) := by
  unfold reassembleFirst
  dsimp only
  split
  · exact ⟨_, destroyKey_effect s src pay ctl.tag, .delivered src pay⟩
  · split
    · exact ⟨_, destroyKey_effect s src pay ctl.tag, .dropped .rxDropNoSlot src ctl.tag⟩
    · next k hfree => exact ⟨_, .opened k (ctl.seq + 1#2) hfree hpay, .accepted⟩

theorem reassembleNext_effect :
    ∃ u, ContextEffect src ctl.tag pay s u ∧ PacketAnswer u (reassembleNext s src ctl pay) := by
  unfold reassembleNext
  split
  · exact ⟨s, .kept, .dropped .rxDropNoCtx src ctl.tag⟩
  next k hk =>
  dsimp only
  split
  · exact ⟨_, .destroyed k hk, .dropped .rxDropSeq src ctl.tag⟩
  split
  · exact ⟨_, .destroyed k hk, .dropped .rxDropOverflow src ctl.tag⟩
  next hover =>
  have hfit := Nat.le_of_not_lt hover
  split
  · exact ⟨_, .completed k hk hfit, .delivered src _⟩
  · exact ⟨_, .extended k hk hfit, .accepted⟩

theorem reassemble_effect (hd : Header) :
    ∃ u, ContextEffect hd.src hd.ctl.tag pay s u ∧ PacketAnswer u (reassemble s hd pay) := by
  unfold reassemble
  split
  · exact ⟨s, .kept, .dropped .rxDropVersion hd.src hd.ctl.tag⟩
  split
  · exact ⟨s, .kept, .dropped .rxDropRoute hd.src hd.ctl.tag⟩
  split
  · exact ⟨s, .kept, .dropped .rxDropLength hd.src hd.ctl.tag⟩
  next hlen =>
  split
  · exact reassembleFirst_effect s hd.src hd.ctl pay (Nat.le_of_not_lt hlen)
  · exact reassembleNext_effect s hd.src hd.ctl pay

end Reassemble

/-! ### The TX engine's turn and the step -/

/-- `TurnEffect s t`: the TX engine's turn at `s` can answer `t` (43_fragmentation.md R203, R204). -/
inductive TurnEffect (s : State) : State → Prop where
  | nothing : TurnEffect s s
  /-- The message ends, its gate closed or no buffer free. -/
  | ended (code : Status) (hnext : s.tx.phase = .next) : TurnEffect s (s.finish code)
  | sent (h : Nat) (t : State) (hnext : s.tx.phase = .next) (hfree : s.freeHandle = some h)
      (hsend : sendPacket s h = .next t) : TurnEffect s t

/-- `StepEffect s t`: a step at `s` can answer `t` (10_state.md R20). -/
inductive StepEffect (s : State) : State → Prop where
  /-- No input is left. -/
  | idle (hin : s.inputs = []) : StepEffect s (s.begin [])
  | command (words : List Word64) (rest : List Input) (i : Instr) (t : State)
      (hin : s.inputs = .command words :: rest) (hdec : decode words = .ok i)
      (he : CommandEffect i (s.begin rest) t) : StepEffect s t
  /-- A transaction that does not decode, while halted (60_exceptions.md R292). -/
  | turnedAway (words : List Word64) (rest : List Input) (hin : s.inputs = .command words :: rest) :
      StepEffect s ((s.begin rest).respond .faulted 0#32)
  /-- A transaction that does not decode, on a running engine (60_exceptions.md R290). -/
  | undecodable (words : List Word64) (rest : List Input) (op : Byte) (c : Cause)
      (hin : s.inputs = .command words :: rest) (hc : c ≠ .noFault) :
      StepEffect s ((s.begin rest).raise op c 0x00#8)
  | turn (rest : List Input) (t : State) (hin : s.inputs = .txEngine :: rest) (he : TurnEffect (s.begin rest) t) : StepEffect s t
  | reset (rest : List Input) (hin : s.inputs = .reset :: rest) : StepEffect s (resetStep (s.begin rest))

section Step

variable {s t : State}

theorem State.phase_of_txEnabled (he : s.txEnabled = true) : s.tx.phase = .next := by
  obtain ⟨-, hnext, -⟩ := State.txEnabled_iff.mp he
  exact hnext

theorem txEngineStep_effect (h : txEngineStep s = .next t) : TurnEffect s t := by
  obtain ⟨-, e⟩ | ⟨he, -, e⟩ | ⟨he, -, -, e⟩ | ⟨b, he, -, hfree, e⟩ := txEngineStep_cases s <;> rw [e] at h
  · cases h; exact .nothing
  · cases h; exact .ended .errTxDisabled (State.phase_of_txEnabled he)
  · cases h; exact .ended .errNoBuf (State.phase_of_txEnabled he)
  · exact .sent b t (State.phase_of_txEnabled he) hfree h

theorem decodeFault_effect {words : List Word64} {rest : List Input} {c : Cause} {w : Word64}
    (hin : s.inputs = .command words :: rest) (hc : c ≠ .noFault) (h : decodeFault c w (s.begin rest) = .next t) : StepEffect s t := by
  obtain ⟨-, rfl⟩ | ⟨-, e⟩ := whenRunning_next h
  · exact .turnedAway words rest hin
  · cases e; exact .undecodable words rest (opField w) c hin hc

theorem step_effect (h : step s = .next t) : StepEffect s t := by
  obtain ⟨hin, e⟩ | ⟨words, rest, hin, e⟩ | ⟨rest, hin, e⟩ | ⟨rest, hin, e⟩ := step_cases s <;> rw [e] at h
  · cases h; exact .idle hin
  · obtain ⟨i, hdec, e⟩ | ⟨c, hc, e⟩ | e := runTransaction_cases words (s.begin rest) <;> rw [e] at h
    · exact .command words rest i t hin hdec (exec_effect h)
    · exact decodeFault_effect hin (by obtain rfl | rfl := hc <;> decide) h
    · cases h
  · exact .turn rest t hin (txEngineStep_effect h)
  · cases h; exact .reset rest hin

end Step

end Sys2Proof.Machine
end

section
/-! PROOF. The event history: every effect of a step leaves the earlier events where they are (10_state.md R39). -/

namespace Sys2Proof.Machine

section Effects

variable {s t : State}

theorem State.destroyKey_events (s : State) (src : Byte) (tag : BitVec 3) :
    (s.destroyKey src tag).events = s.events := by
  unfold State.destroyKey
  split <;> rfl

theorem ContextEffect.events {src : Byte} {tag : BitVec 3} {pay : List Byte} (h : ContextEffect src tag pay s t) :
    t.events = s.events := by
  cases h with
  | opened => exact State.destroyKey_events s src tag
  | kept | destroyed | extended | completed => rfl

theorem PacketAnswer.events (h : PacketAnswer s t) : s.events <+: t.events := by
  cases h with
  | accepted => exact List.prefix_refl _
  | dropped | delivered => exact List.prefix_append _ _

theorem reassemble_events (s : State) (hd : Header) (pay : List Byte) :
    s.events <+: (reassemble s hd pay).events := by
  obtain ⟨u, hctx, hans⟩ := reassemble_effect s pay hd
  exact hctx.events ▸ hans.events

theorem State.finish_keeps_events (s : State) (code : Status) : s.events <+: (s.finish code).events := by
  rw [State.finish_events]
  exact List.prefix_append _ _

theorem CommandEffect.events {i : Instr} (h : CommandEffect i s t) : s.events <+: t.events := by
  cases h with
  | received => exact reassemble_events (s.consumed _) (s.rxHeader _) (s.rxPayload _)
  | sendFailed => exact State.finish_keeps_events s.retirePacket .errBinding
  | messageSent => exact State.finish_keeps_events s.ackPacket .ok
  | wroteCfg =>
    unfold writeCfg
    split <;> exact List.prefix_refl _
  | _ => exact List.prefix_refl _

theorem sendPacket_events {h : Nat} (hsend : sendPacket s h = .next t) : s.events <+: t.events := by
  unfold sendPacket at hsend
  dsimp only at hsend
  split at hsend
  · cases hsend
  split at hsend
  · cases hsend
  next hw =>
  split at hsend
  · cases hsend
  obtain ⟨-, rfl⟩ := State.arenaWriteN_some hw
  cases hsend
  exact List.prefix_append _ _

theorem TurnEffect.events (h : TurnEffect s t) : s.events <+: t.events := by
  cases h with
  | nothing => exact List.prefix_refl _
  | ended code => exact State.finish_keeps_events s code
  | sent b _ _ _ hsend => exact sendPacket_events hsend

theorem StepEffect.events (h : StepEffect s t) : s.events <+: t.events := by
  cases h with
  | idle | turnedAway | undecodable => exact List.prefix_refl _
  | command _ _ _ _ _ _ he => exact he.events
  | turn _ _ _ he => exact he.events
  | reset => exact List.prefix_append _ _

end Effects

/-- Settles O20, by the cases of what a step can do. -/
theorem noStepRemovesAnEvent : Obligations.NoStepRemovesAnEvent := by
  intro s t h
  obtain ⟨es, hes⟩ := (step_effect h).events
  exact ⟨es, hes.symm⟩

end Sys2Proof.Machine
end

section
/-! PROOF. The reset step: what each buffer, context and tag holds after it (10_state.md R40, 70_reset_and_hazards.md
R320). -/

namespace Sys2Proof.Machine

theorem State.afterReset_ctx {p : Config.Params} {draw k : Nat} (hk : k < p.nctx) :
    (State.afterReset p draw).ctx k = Context.afterReset (draw + p.nbuf + k) := by
  simp [State.ctx, State.afterReset, hk]

@[simp] theorem resetStep_nbuf (s : State) : (resetStep s).nbuf = s.params.nbuf :=
  State.afterReset_nbuf s.params s.draws

@[simp] theorem resetStep_nctx (s : State) : (resetStep s).nctx = s.params.nctx :=
  State.afterReset_nctx s.params s.draws

theorem resetStep_buf (s : State) {h : Nat} (hh : h < (resetStep s).nbuf) :
    (resetStep s).buf h = Buffer.afterReset s.params (s.draws + h) :=
  State.afterReset_buf (by simpa using hh)

theorem resetStep_ctx (s : State) {k : Nat} (hk : k < (resetStep s).nctx) :
    (resetStep s).ctx k = Context.afterReset (s.draws + s.params.nbuf + k) :=
  State.afterReset_ctx (by simpa using hk)

@[simp] theorem resetStep_tagBusy (s : State) (d : Byte) (t : BitVec 3) : (resetStep s).tagBusy d t = false := rfl

theorem step_reset {s : State} {rest : List Input} (hin : s.inputs = .reset :: rest) :
    step s = .next (resetStep (s.begin rest)) := by
  simp [step, hin]

/-- Settles O14: the reset step's next state, read element by element. -/
theorem resetWritesEveryElement : Obligations.ResetWritesEveryElement := by
  intro s rest hin
  have hbuf : ∀ h < (resetStep (s.begin rest)).nbuf,
      (resetStep (s.begin rest)).buf h = Buffer.afterReset s.params (s.draws + h) :=
    fun _ hh => resetStep_buf (s.begin rest) hh
  have hctx : ∀ k < (resetStep (s.begin rest)).nctx,
      (resetStep (s.begin rest)).ctx k = Context.afterReset (s.draws + s.params.nbuf + k) :=
    fun _ hk => resetStep_ctx (s.begin rest) hk
  have htxMem : (resetStep (s.begin rest)).txMem = Memory.drawn (s.draws + s.params.nbuf + s.params.nctx) := rfl
  refine ⟨resetStep (s.begin rest), step_reset hin, rfl, rfl, rfl, rfl, rfl, rfl, rfl, resetStep_nbuf _, ?_,
    resetStep_nctx _, ?_, resetStep_tagBusy _, rfl, ?_, rfl⟩
  · intro h hh
    rw [hbuf h hh]
    exact ⟨rfl, rfl, rfl, rfl, rfl, rfl, Nat.le_add_right _ _⟩
  · intro k hk
    rw [hctx k hk]
    exact ⟨rfl, rfl, rfl, rfl, rfl, rfl, Nat.le_add_right_of_le (Nat.le_add_right _ _)⟩
  · rw [htxMem]
    exact Nat.le_add_right_of_le (Nat.le_add_right _ _)

end Sys2Proof.Machine
end

section
/-! PROOF. The invariant of the machine (10_state.md R31, R33, R34, R37): what each operation on the state asks for to keep
it, then each effect of a step. -/

namespace Sys2Proof.Machine

section Keeps

variable {s t : State}

/-! ### The parts of the invariant -/

theorem State.Inv.buf_ok (hs : s.Inv) {h : Nat} (hh : h < s.nbuf) :
    (s.buf h).windowOk s.params ∧ (s.buf h).data.within s.params.cap := by
  obtain ⟨-, ⟨-, hbufs⟩, -⟩ := hs
  exact hbufs _ (State.buf_mem hh)

theorem State.Inv.contextInv (hs : s.Inv) : s.contextInv := by
  obtain ⟨-, -, hc, -⟩ := hs
  exact hc

theorem State.Inv.tagInv (hs : s.Inv) : s.tagInv := by
  obtain ⟨-, -, -, ht, -⟩ := hs
  exact ht

theorem State.Inv.txInv (hs : s.Inv) : s.txInv := by
  obtain ⟨-, -, -, -, -, hx, -⟩ := hs
  exact hx

theorem State.Inv.mtu_le_maxMsgLen (hs : s.Inv) : Config.mtu ≤ s.params.maxMsgLen := by
  obtain ⟨⟨-, -, -, -, -, hmtu, -⟩, -⟩ := hs
  exact hmtu

theorem State.Inv.txmemCap_le (hs : s.Inv) : s.params.txmemCap ≤ 65535 := by
  obtain ⟨⟨-, -, -, -, -, -, -, -, htxmem⟩, -⟩ := hs
  exact htxmem

/-! ### The arena (10_state.md R31) -/

theorem State.setBuf_arenaInv (hs : s.arenaInv) (h : Nat) {b : Buffer} (hw : b.windowOk s.params)
    (hd : b.data.within s.params.cap) : (s.setBuf h b).arenaInv := by
  obtain ⟨hlen, hbufs⟩ := hs
  refine ⟨(State.setBuf_nbuf s h b).trans hlen, fun c hc => ?_⟩
  obtain hmem | rfl := List.mem_or_eq_of_mem_set hc
  · exact hbufs c hmem
  · exact ⟨hw, hd⟩

/-- The window that an allocation sets is in order, since CAP has room for the header and MTU bytes
(41_arena.md R131). -/
theorem Buffer.allocated_windowOk (p : Config.Params) (o : Owner) {plen : Nat} (d : Memory) (hp : plen ≤ Config.mtu) :
    (Buffer.mk true o p.headroom p.headroom (p.headroom + Config.hdrLen + plen) d).windowOk p := by
  intro _
  refine ⟨Nat.le_refl _, rfl, Nat.le_add_right _ _, ?_⟩
  show p.headroom + Config.hdrLen + plen ≤ p.headroom + Config.hdrLen + Config.mtu + p.tailroom
  omega

/-- A window that grew at its back by no more than CAP has room for (41_arena.md R138, R139). -/
theorem Buffer.windowOk.grewBack {p : Config.Params} {b : Buffer} {n : Nat} (hw : b.windowOk p)
    (ha : b.alloc = true) (hn : b.endOff + n ≤ p.cap) (d : Memory) :
    ({ b with endOff := b.endOff + n, data := d } : Buffer).windowOk p := by
  intro _
  obtain ⟨hstart, hhdr, hend, -⟩ := hw ha
  exact ⟨hstart, hhdr, Nat.le_add_right_of_le hend, hn⟩

/-- A window that grew at its front (41_arena.md R137). -/
theorem Buffer.windowOk.grewFront {p : Config.Params} {b : Buffer} (hw : b.windowOk p) (ha : b.alloc = true)
    (n : Nat) : ({ b with start := b.start - n } : Buffer).windowOk p := by
  intro _
  obtain ⟨hstart, hrest⟩ := hw ha
  exact ⟨Nat.le_trans (Nat.sub_le b.start n) hstart, hrest⟩

/-! ### The TX engine and the buffers it owns (10_state.md R37) -/

/-- No buffer is the TX engine's. -/
def State.cmdOwnsAll (s : State) : Prop := ∀ h < s.nbuf, (s.buf h).owner = .cmd

/-- The part of 10_state.md R37 that speaks of the TX engine's own fields. -/
def TxEngine.fieldsOk (p : Config.Params) (nbuf : Nat) (x : TxEngine) : Prop :=
  x.i ≤ x.n ∧ x.n ≤ 65535 ∧ x.len ≤ p.txmemCap ∧ x.cur < nbuf ∧ (x.phase ≠ .idle → x.n = pktCount x.len ∧ x.i < x.n)

theorem State.txInv.fieldsOk (hx : s.txInv) : s.tx.fieldsOk s.params s.nbuf := by
  obtain ⟨hi, hn, hlen, hcur, hactive, -, -⟩ := hx
  exact ⟨hi, hn, hlen, hcur, hactive⟩

theorem State.txInv.cur_lt (hx : s.txInv) : s.tx.cur < s.nbuf := by
  obtain ⟨-, -, -, hcur, -⟩ := hx
  exact hcur

theorem State.txInv.cmdOwnsAll (hx : s.txInv) (hp : s.tx.phase ≠ .waitAck) : s.cmdOwnsAll := by
  obtain ⟨-, -, -, -, -, -, howner⟩ := hx
  intro h hh
  cases ho : (s.buf h).owner with
  | cmd => rfl
  | txeng => exact absurd (howner h hh ho).1 hp

theorem State.txInv_of_cmdOwnsAll (hf : s.tx.fieldsOk s.params s.nbuf) (hp : s.tx.phase ≠ .waitAck)
    (hc : s.cmdOwnsAll) : s.txInv := by
  obtain ⟨hi, hn, hlen, hcur, hactive⟩ := hf
  refine ⟨hi, hn, hlen, hcur, hactive, fun hw => absurd hw hp, fun h hh ho => ?_⟩
  rw [hc h hh] at ho
  contradiction

/-- A free buffer is CMD's: the TX engine's one buffer is allocated. -/
theorem State.txInv.owner_of_free (hx : s.txInv) {h : Nat} (hh : h < s.nbuf) (hfree : (s.buf h).alloc = false) :
    (s.buf h).owner = .cmd := by
  obtain ⟨-, -, -, -, -, hwait, howner⟩ := hx
  cases ho : (s.buf h).owner with
  | cmd => rfl
  | txeng =>
    obtain ⟨hp, rfl⟩ := howner h hh ho
    rw [(hwait hp).1] at hfree
    contradiction

/-- A buffer written without a change of its owner, and not freed if it is the TX engine's. -/
theorem State.setBuf_txInv (hx : s.txInv) {h : Nat} {b : Buffer} (hh : h < s.nbuf) (ho : b.owner = (s.buf h).owner)
    (ha : b.owner = .txeng → b.alloc = true) : (s.setBuf h b).txInv := by
  obtain ⟨hi, hn, hlen, hcur, hactive, hwait, howner⟩ := hx
  refine ⟨hi, hn, hlen, (State.setBuf_nbuf s h b).symm ▸ hcur, hactive, fun hp => ?_, fun h' hh' ho' => ?_⟩
  · by_cases hne : s.tx.cur = h
    · subst hne
      have hcurOwner := ho.trans (hwait hp).2
      rw [State.setBuf_tx, State.setBuf_buf_same b hh]
      exact ⟨ha hcurOwner, hcurOwner⟩
    · rw [State.setBuf_tx, State.setBuf_buf_other s b hne]
      exact hwait hp
  · rw [State.setBuf_nbuf] at hh'
    by_cases hne : h' = h
    · subst hne
      rw [State.setBuf_buf_same b hh, ho] at ho'
      exact howner h' hh ho'
    · rw [State.setBuf_buf_other s b hne] at ho'
      exact howner h' hh' ho'

/-- The one buffer of the TX engine written, its packet awaiting acknowledgement. -/
theorem State.txInv_of_waitAck {h : Nat} {b : Buffer} {x : TxEngine} (hc : s.cmdOwnsAll) (hh : h < s.nbuf)
    (ha : b.alloc = true) (ho : b.owner = .txeng) (hf : x.fieldsOk s.params s.nbuf) (hw : x.phase = .waitAck)
    (hcur : x.cur = h) : ({ s.setBuf h b with tx := x } : State).txInv := by
  obtain ⟨hi, hn, hlen, hlt, hactive⟩ := hf
  subst hcur
  have hsame : (s.setBuf x.cur b).buf x.cur = b := State.setBuf_buf_same b hh
  refine ⟨hi, hn, hlen, (State.setBuf_nbuf s x.cur b).symm ▸ hlt, hactive, fun _ => ?_, fun h' hh' ho' => ⟨hw, ?_⟩⟩
  · show ((s.setBuf x.cur b).buf x.cur).alloc = true ∧ ((s.setBuf x.cur b).buf x.cur).owner = .txeng
    rw [hsame]
    exact ⟨ha, ho⟩
  · by_contra hne
    have hlt' : h' < s.nbuf := State.setBuf_nbuf s x.cur b ▸ hh'
    have howner : ((s.setBuf x.cur b).buf h').owner = .cmd := by
      rw [State.setBuf_buf_other s b hne]
      exact hc h' hlt'
    exact nomatch howner.symm.trans ho'

/-! ### The contexts (10_state.md R33, R34) -/

/-- Slots apart, in terms of the keys they hold. -/
theorem State.contexts_apart_of_holds_unique
    (hu : ∀ src tag j k, s.holds j src tag → s.holds k src tag → j = k) :
    s.ctxs.Pairwise (fun c d => c.apart d) := by
  refine List.pairwise_iff_getElem.mpr fun j k hj hk hlt hvj hvk hkey => ?_
  rw [← State.ctx_of_lt hj] at hvj hkey
  rw [← State.ctx_of_lt hk] at hvk hkey
  obtain ⟨hsrc, htag⟩ := hkey
  exact Nat.ne_of_lt hlt (hu _ _ j k ⟨hj, hvj, hsrc, htag⟩ ⟨hk, hvk, rfl, rfl⟩)

theorem State.setCtx_holds_same {k : Nat} {c : Context} {src : Byte} {tag : BitVec 3}
    (h : (s.setCtx k c).holds k src tag) : c.valid = true ∧ c.src = src ∧ c.tag = tag := by
  obtain ⟨hk, hkey⟩ := h
  rw [State.setCtx_nctx] at hk
  rwa [State.setCtx_ctx_same c hk] at hkey

theorem State.setCtx_holds_other {j k : Nat} {c : Context} {src : Byte} {tag : BitVec 3} (hne : j ≠ k)
    (h : (s.setCtx k c).holds j src tag) : s.holds j src tag := by
  obtain ⟨hj, hkey⟩ := h
  rw [State.setCtx_nctx] at hj
  rw [State.setCtx_ctx_other s c hne] at hkey
  exact ⟨hj, hkey⟩

/-- A slot written with a context inside its bounds, whose key no other slot holds if it is live. -/
theorem State.setCtx_contextInv (hs : s.contextInv) (k : Nat) {c : Context} (hlen : c.len ≤ s.params.maxMsgLen)
    (hacc : c.acc.within s.params.maxMsgLen)
    (hkey : c.valid = true → ∀ j, j ≠ k → ¬s.holds j c.src c.tag) : (s.setCtx k c).contextInv := by
  have hother : ∀ src tag j, j ≠ k → (s.setCtx k c).holds j src tag → ¬(s.setCtx k c).holds k src tag := by
    intro src tag j hne hj hk
    obtain ⟨hv, rfl, rfl⟩ := State.setCtx_holds_same hk
    exact hkey hv j hne (State.setCtx_holds_other hne hj)
  have ⟨hcount, hslots, _⟩ := hs
  refine ⟨(State.setCtx_nctx s k c).trans hcount, fun d hd => ?_,
    State.contexts_apart_of_holds_unique fun src tag i j hi hj => ?_⟩
  · obtain hmem | rfl := List.mem_or_eq_of_mem_set hd
    · exact hslots d hmem
    · exact ⟨hlen, hacc⟩
  · by_cases hik : i = k <;> by_cases hjk : j = k
    · exact hik.trans hjk.symm
    · exact absurd (hik ▸ hi) (hother src tag j hjk hj)
    · exact absurd (hjk ▸ hj) (hother src tag i hik hi)
    · exact State.holds_unique hs (State.setCtx_holds_other hik hi) (State.setCtx_holds_other hjk hj)

theorem State.contextInv.ctx_ok (hs : s.contextInv) {k : Nat} (hk : k < s.nctx) :
    (s.ctx k).len ≤ s.params.maxMsgLen ∧ (s.ctx k).acc.within s.params.maxMsgLen := by
  obtain ⟨-, hslots, -⟩ := hs
  exact hslots _ (State.ctx_mem hk)

theorem State.destroyCtx_contextInv (hs : s.contextInv) {k : Nat} (hk : k < s.nctx) : (s.destroyCtx k).contextInv := by
  obtain ⟨hlen, hacc⟩ := hs.ctx_ok hk
  exact State.setCtx_contextInv hs k hlen hacc nofun

theorem State.flushAll_contextInv (hs : s.contextInv) :
    ({ s with ctxs := s.ctxs.map (fun c => { c with valid := false }) } : State).contextInv := by
  obtain ⟨hlen, hctxs, -⟩ := hs
  refine ⟨(List.length_map _).trans hlen, fun d hd => ?_, List.pairwise_map.mpr ?_⟩
  · obtain ⟨c, hc, rfl⟩ := List.mem_map.mp hd
    exact hctxs c hc
  · exact List.pairwise_of_forall_mem_list fun _ _ _ _ hvalid => nomatch hvalid

/-- Once its prior context is destroyed, no context has the key (44_reassembly.md R233). -/
theorem State.destroyKey_noContext (hs : s.contextInv) (src : Byte) (tag : BitVec 3) :
    (s.destroyKey src tag).noContext src tag := by
  unfold State.destroyKey
  split
  · next hnone => exact State.lookup_eq_none.mp hnone
  · next k hk =>
    intro j _ hj
    by_cases hne : j = k
    · subst hne
      exact nomatch (State.setCtx_holds_same hj).1
    · exact hne (State.holds_unique hs (State.setCtx_holds_other hne hj) (State.lookup_some hk))

theorem State.destroyKey_contextInv (hs : s.contextInv) (src : Byte) (tag : BitVec 3) :
    (s.destroyKey src tag).contextInv := by
  unfold State.destroyKey
  split
  · exact hs
  · next k hk => exact State.destroyCtx_contextInv hs (State.lookup_some hk).1

@[simp] theorem State.destroyKey_params (s : State) (src : Byte) (tag : BitVec 3) :
    (s.destroyKey src tag).params = s.params := by
  unfold State.destroyKey
  split <;> rfl

theorem State.appended_ok (hs : s.contextInv) {k : Nat} {pay : List Byte} (hk : k < s.nctx)
    (hfit : (s.ctx k).len + pay.length ≤ s.params.maxMsgLen) :
    ((s.ctx k).appended pay).len ≤ s.params.maxMsgLen ∧
      ((s.ctx k).appended pay).acc.within s.params.maxMsgLen :=
  ⟨hfit, Memory.writeN_within _ pay (hs.ctx_ok hk).2 hfit⟩

/-- What a packet leaves in the contexts is in order; an opened context has room for the packet since MAX_MSG_LEN ≥ MTU
(00_scope.md R7). -/
theorem ContextEffect.contextInv {src : Byte} {tag : BitVec 3} {pay : List Byte}
    (h : ContextEffect src tag pay s t) (hmtu : Config.mtu ≤ s.params.maxMsgLen) (hs : s.contextInv) :
    t.contextInv := by
  cases h with
  | kept => exact hs
  | destroyed k hk => exact State.destroyCtx_contextInv hs (State.lookup_some hk).1
  | opened k exp hfree hpay =>
    have hdestroyed := State.destroyKey_contextInv hs src tag
    have hroom : pay.length ≤ (s.destroyKey src tag).params.maxMsgLen := by
      rw [State.destroyKey_params]
      exact Nat.le_trans hpay hmtu
    have hk := (State.freeSlot_eq_some.mp hfree).1
    exact State.setCtx_contextInv hdestroyed k hroom
      (Memory.writeN_within 0 pay (hdestroyed.ctx_ok hk).2 (by rwa [Nat.zero_add]))
      fun _ j _ hj => State.destroyKey_noContext hs src tag j hj.1 hj
  | extended k hk hfit =>
    obtain ⟨hlt, hvalid, -, -⟩ := State.lookup_some hk
    obtain ⟨hlen, hacc⟩ := State.appended_ok hs hlt hfit
    refine State.setCtx_contextInv hs k hlen hacc fun _ j hne hj => hne ?_
    exact State.holds_unique hs hj ⟨hlt, hvalid, rfl, rfl⟩
  | completed k hk hfit =>
    obtain ⟨hlen, hacc⟩ := State.appended_ok hs (State.lookup_some hk).1 hfit
    exact State.setCtx_contextInv hs k hlen hacc nofun

/-! ### The operations on a state that meets the invariant

An operation that writes one part asks for that part alone: the others are those of the state before it. -/

theorem State.Inv.respond (hs : s.Inv) (st : Status) (data : Word32) : (s.respond st data).Inv := hs

theorem State.Inv.begin (hs : s.Inv) (rest : List Input) : (s.begin rest).Inv := hs

theorem State.Inv.raise (hs : s.Inv) (op : Byte) {c : Cause} (info : Byte) (hc : c ≠ .noFault) :
    (s.raise op c info).Inv := by
  obtain ⟨hl, ha, hc', ht, hm, hx, -⟩ := hs
  exact ⟨hl, ha, hc', ht, hm, hx, fun _ => hc, fun _ => rfl⟩

theorem State.Inv.setBuf (hs : s.Inv) {h : Nat} {b : Buffer} (hh : h < s.nbuf) (hw : b.windowOk s.params)
    (hd : b.data.within s.params.cap) (ho : b.owner = (s.buf h).owner) (ha : b.owner = .txeng → b.alloc = true) :
    (s.setBuf h b).Inv := by
  obtain ⟨hl, harena, hc, ht, hm, hx, hf⟩ := hs
  exact ⟨hl, State.setBuf_arenaInv harena h hw hd, hc, ht, hm, State.setBuf_txInv hx hh ho ha, hf⟩

theorem State.Inv.allocBuffer (hs : s.Inv) {h len : Nat} (hlen : len ≤ Config.mtu) (hfree : s.freeHandle = some h) :
    (s.allocBuffer h .cmd len).Inv := by
  obtain ⟨hh, hnot, -⟩ := State.freeHandle_eq_some.mp hfree
  have howner : (s.buf h).owner = .cmd := hs.txInv.owner_of_free hh hnot
  exact State.Inv.setBuf hs hh (Buffer.allocated_windowOk s.params .cmd (Memory.drawn s.draws) hlen)
    (Memory.drawn_within _ _) howner.symm nofun

theorem State.Inv.consumed (hs : s.Inv) {h : Byte} (hl : s.live h) (ho : (s.buf h.toNat).owner = .cmd) :
    (s.consumed h).Inv :=
  hs.setBuf hl.1 nofun (hs.buf_ok hl.1).2 rfl fun htxeng => nomatch ho.symm.trans htxeng

theorem State.Inv.withContexts (hs : s.Inv) (cs : List Context) (hc : ({ s with ctxs := cs } : State).contextInv) :
    ({ s with ctxs := cs } : State).Inv := by
  obtain ⟨hl, ha, -, ht, hm, hx, hf⟩ := hs
  exact ⟨hl, ha, hc, ht, hm, hx, hf⟩

theorem State.Inv.withTags (hs : s.Inv) (tags : List Nat) (ht : ({ s with busyTags := tags } : State).tagInv) :
    ({ s with busyTags := tags } : State).Inv := by
  obtain ⟨hl, ha, hc, -, hm, hx, hf⟩ := hs
  exact ⟨hl, ha, hc, ht, hm, hx, hf⟩

theorem State.Inv.withTx (hs : s.Inv) (x : TxEngine) (hx : ({ s with tx := x } : State).txInv) :
    ({ s with tx := x } : State).Inv := by
  obtain ⟨hl, ha, hc, ht, hm, -, hf⟩ := hs
  exact ⟨hl, ha, hc, ht, hm, hx, hf⟩

theorem State.Inv.takeTag (hs : s.Inv) (d : Byte) (g : BitVec 3) : (s.takeTag d g).Inv := by
  obtain ⟨hrising, hlt⟩ := hs.tagInv
  refine hs.withTags _ ⟨insertRising_rising hrising, fun k hk => ?_⟩
  obtain rfl | hk := mem_insertRising.mp hk
  · exact tagKey_lt d g
  · exact hlt k hk

theorem State.Inv.fewerTags (hs : s.Inv) {tags : List Nat} (hsub : tags.Sublist s.busyTags) :
    ({ s with busyTags := tags } : State).Inv := by
  obtain ⟨hrising, hlt⟩ := hs.tagInv
  exact hs.withTags tags ⟨hrising.sublist hsub, fun k hk => hlt k (hsub.subset hk)⟩

theorem State.Inv.releaseTag (hs : s.Inv) (d : Byte) (g : BitVec 3) : (s.releaseTag d g).Inv :=
  hs.fewerTags List.filter_sublist

theorem State.Inv.writeTxMem (hs : s.Inv) {a : Nat} (v : Byte) (ha : a < s.params.txmemCap) :
    ({ s with txMem := s.txMem.write a v } : State).Inv := by
  obtain ⟨hl, harena, hc, ht, hm, hx, hf⟩ := hs
  exact ⟨hl, harena, hc, ht, Memory.write_within a v hm ha, hx, hf⟩

/-! ### A message's start, its packets and its end (43_fragmentation.md R201 to R207) -/

theorem pktCount_pos (len : Nat) : 0 < pktCount len := Nat.le_max_left 1 _

/-- The packet count of a message fits the width of `Tx.n` (10_state.md R36). -/
theorem pktCount_le {len : Nat} (hlen : len ≤ 65535) : pktCount len ≤ 65535 := by
  unfold pktCount ceilDiv Config.mtu
  omega

theorem State.Inv.startTx (hs : s.Inv) (hidle : s.tx.phase = .idle) (d : Byte) (g : BitVec 3) (al : Bool) {len : Nat}
    (hlen : len ≤ s.params.txmemCap) : (s.startTx d g al len).Inv := by
  have hcur : 0 < s.nbuf := Nat.zero_lt_of_lt hs.txInv.cur_lt
  have hcount := pktCount_le (Nat.le_trans hlen hs.txmemCap_le)
  exact hs.withTx _ <| State.txInv_of_cmdOwnsAll
    ⟨Nat.zero_le _, hcount, hlen, hcur, fun _ => ⟨rfl, pktCount_pos len⟩⟩
    nofun (hs.txInv.cmdOwnsAll (by rw [hidle]; decide))

theorem State.finish_busyTags_sublist (s : State) (code : Status) : (s.finish code).busyTags.Sublist s.busyTags := by
  unfold State.finish State.releaseMessageTag
  split
  · exact List.Sublist.refl _
  · split
    · exact List.filter_sublist
    · exact List.Sublist.refl _

/-- `Finish` meets the invariant where the state with the TX engine idle does. -/
theorem State.finish_inv {code : Status}
    (hs : ({ s with tx := { s.tx with phase := .idle, code := code } } : State).Inv) : (s.finish code).Inv := by
  rw [State.finish_frame]
  exact hs.fewerTags (State.finish_busyTags_sublist s code)

theorem TxEngine.fieldsOk.idle {p : Config.Params} {nbuf : Nat} {x : TxEngine} (hx : x.fieldsOk p nbuf)
    (code : Status) : ({ x with phase := .idle, code := code } : TxEngine).fieldsOk p nbuf := by
  obtain ⟨hi, hn, hlen, hcur, -⟩ := hx
  exact ⟨hi, hn, hlen, hcur, fun hactive => absurd rfl hactive⟩

theorem State.Inv.finish (hs : s.Inv) (code : Status) (hnext : s.tx.phase = .next) : (s.finish code).Inv := by
  have hcmd := hs.txInv.cmdOwnsAll (by rw [hnext]; decide)
  exact State.finish_inv (hs.withTx _ (State.txInv_of_cmdOwnsAll (hs.txInv.fieldsOk.idle code) nofun hcmd))

/-- The packet given back leaves every buffer to CMD: the one it was in was the only other (10_state.md R37). -/
theorem State.retirePacket_cmdOwnsAll (hx : s.txInv) : s.retirePacket.cmdOwnsAll := by
  obtain ⟨-, -, -, hcur, -, -, howner⟩ := hx
  unfold State.retirePacket
  intro h hh
  rw [State.setBuf_nbuf] at hh
  by_cases hne : h = s.tx.cur
  · subst hne
    rw [State.setBuf_buf_same _ hcur]
  · rw [State.setBuf_buf_other s _ hne]
    cases ho : (s.buf h).owner with
    | cmd => rfl
    | txeng => exact absurd (howner h hh ho).2 hne

/-- The packet given back while the TX engine leaves WAIT_ACK. Between the two, R37 does not hold. -/
theorem State.Inv.retirePacket (hs : s.Inv) (x : TxEngine) (hp : x.phase ≠ .waitAck)
    (hx' : x.fieldsOk s.params s.nbuf) : ({ s.retirePacket with tx := x } : State).Inv := by
  obtain ⟨-, hdata⟩ := hs.buf_ok hs.txInv.cur_lt
  obtain ⟨hl, ha, hc, ht, hm, hx, hf⟩ := hs
  have hfields : x.fieldsOk s.retirePacket.params s.retirePacket.nbuf := by
    unfold State.retirePacket
    rwa [State.setBuf_nbuf]
  exact ⟨hl, State.setBuf_arenaInv ha s.tx.cur nofun hdata, hc, ht, hm,
    State.txInv_of_cmdOwnsAll hfields hp (State.retirePacket_cmdOwnsAll hx), hf⟩

/-- The packet index after an acknowledgement is still at most the packet count (10_state.md R37). -/
theorem State.txInv.counted_fieldsOk (hx : s.txInv) (hw : s.tx.phase = .waitAck) {p : Phase}
    (hp : p ≠ .idle → s.tx.i + 1 ≠ s.tx.n) (code : Status) :
    ({ s.tx with phase := p, i := s.tx.i + 1, code := code } : TxEngine).fieldsOk s.params s.nbuf := by
  obtain ⟨-, hn, hlen, hcur, hactive, -⟩ := hx
  obtain ⟨hcount, hlt⟩ := hactive (by rw [hw]; decide)
  exact ⟨hlt, hn, hlen, hcur, fun h => ⟨hcount, Nat.lt_of_le_of_ne hlt (hp h)⟩⟩

theorem State.Inv.sendPacket (hs : s.Inv) {h : Nat} (hnext : s.tx.phase = .next) (hfree : s.freeHandle = some h)
    (hsend : sendPacket s h = .next t) : t.Inv := by
  obtain ⟨hh, -, -⟩ := State.freeHandle_eq_some.mp hfree
  obtain ⟨hl, ha, hc, ht, hm, hx, hf⟩ := hs
  obtain ⟨hi, hn, hlen, -, hactive⟩ := hx.fieldsOk
  have hclen := chunkLen_le_mtu s.tx.len s.tx.i
  have hframe : s.params.headroom + (s.packetHeader ++
      s.txMem.readN (s.tx.i * Config.mtu) (chunkLen s.tx.len s.tx.i)).length ≤ s.params.cap := by
    rw [List.length_append, State.packetHeader_length, Memory.readN_length]
    unfold Config.Params.cap
    omega
  rw [sendPacket_eq hh hlen] at hsend
  cases hsend
  exact ⟨hl, State.setBuf_arenaInv ha h (Buffer.allocated_windowOk s.params .txeng _ hclen)
      (Memory.writeN_within _ _ (Memory.drawn_within _ _) hframe), hc, ht, hm,
    State.txInv_of_waitAck (x := { s.tx with cur := h, phase := .waitAck })
      (hx.cmdOwnsAll (by rw [hnext]; decide)) hh rfl rfl
      ⟨hi, hn, hlen, hh, fun _ => hactive (by rw [hnext]; decide)⟩ rfl rfl, hf⟩

/-! ### The effects of a step -/

theorem State.Inv.destroyKey (hs : s.Inv) (src : Byte) (tag : BitVec 3) : (s.destroyKey src tag).Inv := by
  unfold State.destroyKey
  split
  · exact hs
  · next k hk => exact hs.withContexts _ (State.destroyCtx_contextInv hs.contextInv (State.lookup_some hk).1)

theorem ContextEffect.inv {src : Byte} {tag : BitVec 3} {pay : List Byte} (h : ContextEffect src tag pay s t)
    (hs : s.Inv) : t.Inv := by
  have hc : t.contextInv := h.contextInv hs.mtu_le_maxMsgLen hs.contextInv
  cases h with
  | kept => exact hs
  | opened => exact (hs.destroyKey src tag).withContexts _ hc
  | destroyed | extended | completed => exact hs.withContexts _ hc

theorem PacketAnswer.inv (h : PacketAnswer s t) (hs : s.Inv) : t.Inv := by
  cases h with
  | accepted | dropped | delivered => exact hs

theorem State.Inv.reassemble (hs : s.Inv) (hd : Header) (pay : List Byte) : (reassemble s hd pay).Inv := by
  obtain ⟨u, hctx, hans⟩ := reassemble_effect s pay hd
  exact hans.inv (hctx.inv hs)

theorem State.Inv.writeCfg (hs : s.Inv) (val : Word32) : (writeCfg val s).Inv := by
  unfold Machine.writeCfg
  split <;> exact hs

theorem CommandEffect.inv {i : Instr} (h : CommandEffect i s t) (hs : s.Inv) : t.Inv := by
  cases h with
  | answered => exact hs
  | faulted c info hc => exact hs.raise _ info hc
  | allocated b hlen hfree => exact hs.allocBuffer hlen hfree
  | freed hl ho => exact hs.consumed hl ho
  | grewFront hl _ =>
    obtain ⟨hw, hd⟩ := hs.buf_ok hl.1
    exact hs.setBuf hl.1 (hw.grewFront hl.2 _) hd rfl fun _ => hl.2
  | grewBack hl hn =>
    obtain ⟨hw, hd⟩ := hs.buf_ok hl.1
    exact hs.setBuf hl.1 (hw.grewBack hl.2 hn _) hd rfl fun _ => hl.2
  | appended hl hn =>
    obtain ⟨hw, hd⟩ := hs.buf_ok hl.1
    exact hs.setBuf hl.1 (hw.grewBack hl.2 hn _) (Memory.writeN_within _ _ hd hn) rfl fun _ => hl.2
  | byteWritten base len hl hreg hidx =>
    obtain ⟨hw, hd⟩ := hs.buf_ok hl.1
    exact hs.setBuf hl.1 hw (Memory.write_within _ _ hd (Buffer.region_lt_cap hl.2 hw hreg hidx)) rfl fun _ => hl.2
  | txByteWritten ha => exact hs.writeTxMem _ ha
  | startedExplicit hidle hlen => exact hs.startTx hidle _ _ false hlen
  | startedAuto tag hidle hlen => exact (hs.takeTag _ tag).startTx hidle _ tag true hlen
  | tagFreed => exact hs.releaseTag _ _
  | sendFailed hw => exact State.finish_inv (hs.retirePacket _ nofun (hs.txInv.fieldsOk.idle .errBinding))
  | messageSent hw _ =>
    exact State.finish_inv (hs.retirePacket _ nofun (hs.txInv.counted_fieldsOk hw (fun h => absurd rfl h) .ok))
  | packetSent hw hmore => exact hs.retirePacket _ nofun (hs.txInv.counted_fieldsOk hw (fun _ => hmore) s.tx.code)
  | received hl ho => exact (hs.consumed hl ho).reassemble _ _
  | flushedAll => exact hs.withContexts _ (State.flushAll_contextInv hs.contextInv)
  | flushedKey k hk => exact hs.withContexts _ (State.destroyCtx_contextInv hs.contextInv (State.lookup_some hk).1)
  | wroteCfg => exact hs.writeCfg _
  | wroteGate => exact hs

theorem TurnEffect.inv (h : TurnEffect s t) (hs : s.Inv) : t.Inv := by
  cases h with
  | nothing => exact hs
  | ended code hnext => exact hs.finish code hnext
  | sent b _ hnext hfree hsend => exact hs.sendPacket hnext hfree hsend

theorem State.Inv.resetStep (hs : s.Inv) : (resetStep s).Inv := by
  obtain ⟨hlegal, -⟩ := hs
  exact State.afterReset_inv s.draws hlegal

theorem StepEffect.inv (h : StepEffect s t) (hs : s.Inv) : t.Inv := by
  cases h with
  | idle => exact hs.begin []
  | command _ rest _ _ _ _ he => exact he.inv (hs.begin rest)
  | turnedAway _ rest => exact (hs.begin rest).respond .faulted 0#32
  | undecodable _ rest op c _ hc => exact (hs.begin rest).raise op 0x00#8 hc
  | turn rest _ _ he => exact he.inv (hs.begin rest)
  | reset rest => exact (hs.begin rest).resetStep

end Keeps

/-- Settles O11, by the cases of what a step can do: each operation of a step keeps the parts of the invariant that it
writes. -/
theorem stepKeepsTheInvariant : Obligations.StepKeepsTheInvariant :=
  fun _ _ hs h => (step_effect h).inv hs

end Sys2Proof.Machine
end

section
/-! PROOF. The draws of the stores (20_memory.md R63): an effect of a step keeps every draw, or draws the bytes of one free
buffer anew, or is the reset step, which draws every store anew. -/

namespace Sys2Proof.Machine

/-! ### The draws of a state -/

/-- The draw of each buffer's bytes. -/
def State.bufDraws (s : State) : List Nat := s.bufs.map (fun b => b.data.draw)

/-- The draw of each context's accumulator. -/
def State.ctxDraws (s : State) : List Nat := s.ctxs.map (fun c => c.acc.draw)

/-- The draw of every store. -/
def State.allDraws (s : State) : List Nat := s.bufDraws ++ s.ctxDraws ++ [s.txMem.draw]

/-- `t` has the draws of `s`, and allocates no buffer. -/
structure State.keepsDraws (s t : State) : Prop where
  bufs : t.bufDraws = s.bufDraws
  ctxs : t.ctxDraws = s.ctxDraws
  txMem : t.txMem.draw = s.txMem.draw
  next : t.draws = s.draws
  alloc : ∀ h, (t.buf h).alloc = true → (s.buf h).alloc = true

/-- `t` has buffer `h`, free in `s`, drawn anew, every other draw as in `s`, and allocates no other buffer. -/
structure State.drawsAnew (s : State) (h : Nat) (t : State) : Prop where
  lt : h < s.nbuf
  free : (s.buf h).alloc = false
  bufs : t.bufDraws = s.bufDraws.set h s.draws
  ctxs : t.ctxDraws = s.ctxDraws
  txMem : t.txMem.draw = s.txMem.draw
  next : t.draws = s.draws + 1
  alloc : ∀ h', h' ≠ h → (t.buf h').alloc = true → (s.buf h').alloc = true

/-- What a step other than reset does to the draws. -/
def State.drawsStep (s t : State) : Prop := s.keepsDraws t ∨ ∃ h, s.drawsAnew h t

section Draws

variable {s t u : State}

theorem State.drawsFresh_iff : s.drawsFresh ↔ s.allDraws.Nodup ∧ ∀ d ∈ s.allDraws, d < s.draws := Iff.rfl

theorem State.buf_draw (s : State) (h : Nat) : (s.buf h).data.draw = s.bufDraws.getD h 0 :=
  (List.getD_map s.bufs Buffer.absent (fun b => b.data.draw)).symm

theorem State.ctx_draw (s : State) (k : Nat) : (s.ctx k).acc.draw = s.ctxDraws.getD k 0 :=
  (List.getD_map s.ctxs (Context.afterReset 0) (fun c => c.acc.draw)).symm

@[simp] theorem State.bufDraws_length (s : State) : s.bufDraws.length = s.nbuf := List.length_map _

/-- A slot written with what maps as its old content leaves the mapped list as it was. -/
theorem map_set_of_eq {α β : Type} (f : α → β) (l : List α) (i : Nat) (d : α) {a : α} (ha : f a = f (l.getD i d)) :
    (l.set i a).map f = l.map f := by
  by_cases hi : i < l.length
  · rw [List.getD_eq_getElem l d hi] at ha
    have hi' : i < (l.map f).length := by rwa [List.length_map]
    rw [List.map_set, ha, ← List.getElem_map f (h := hi'), List.set_getElem_self]
  · rw [List.set_eq_of_length_le (Nat.le_of_not_lt hi)]

/-! ### What keeps the draws -/

theorem State.keepsDraws.of_stores (hbufs : t.bufs = s.bufs) (hctxs : t.ctxs = s.ctxs) (htxMem : t.txMem = s.txMem)
    (hnext : t.draws = s.draws) : s.keepsDraws t where
  bufs := by unfold State.bufDraws; rw [hbufs]
  ctxs := by unfold State.ctxDraws; rw [hctxs]
  txMem := by rw [htxMem]
  next := hnext
  alloc h ha := by unfold State.buf at ha ⊢; rwa [hbufs] at ha

theorem State.keepsDraws.trans (hst : s.keepsDraws t) (htu : t.keepsDraws u) : s.keepsDraws u where
  bufs := htu.bufs.trans hst.bufs
  ctxs := htu.ctxs.trans hst.ctxs
  txMem := htu.txMem.trans hst.txMem
  next := htu.next.trans hst.next
  alloc h ha := hst.alloc h (htu.alloc h ha)

theorem State.drawsAnew.trans {h : Nat} (hst : s.drawsAnew h t) (htu : t.keepsDraws u) : s.drawsAnew h u where
  lt := hst.lt
  free := hst.free
  bufs := htu.bufs.trans hst.bufs
  ctxs := htu.ctxs.trans hst.ctxs
  txMem := htu.txMem.trans hst.txMem
  next := htu.next.trans hst.next
  alloc h' hne ha := hst.alloc h' hne (htu.alloc h' ha)

theorem State.keepsDraws.respond (h : s.keepsDraws t) {st : Status} {data : Word32} :
    s.keepsDraws (t.respond st data) :=
  h.trans (.of_stores rfl rfl rfl rfl)

theorem State.begin_keepsDraws (s : State) (rest : List Input) : s.keepsDraws (s.begin rest) :=
  .of_stores rfl rfl rfl rfl

theorem State.withTx_keepsDraws (s : State) (x : TxEngine) : s.keepsDraws { s with tx := x } :=
  .of_stores rfl rfl rfl rfl

theorem State.finish_keepsDraws (s : State) (code : Status) : s.keepsDraws (s.finish code) := by
  rw [State.finish_frame]
  exact .of_stores rfl rfl rfl rfl

theorem writeCfg_keepsDraws (val : Word32) (s : State) : s.keepsDraws (writeCfg val s) := by
  unfold writeCfg
  split <;> exact .of_stores rfl rfl rfl rfl

/-- A buffer written with bytes of the same draw, and not allocated by the write. -/
theorem State.setBuf_keepsDraws (s : State) (h : Nat) {b : Buffer} (hd : b.data.draw = (s.buf h).data.draw)
    (ha : b.alloc = true → (s.buf h).alloc = true) : s.keepsDraws (s.setBuf h b) where
  bufs := map_set_of_eq (fun b : Buffer => b.data.draw) s.bufs h Buffer.absent hd
  ctxs := rfl
  txMem := rfl
  next := rfl
  alloc h' halloc := by
    by_cases hne : h' = h
    · subst hne
      have hh : h' < s.nbuf := State.setBuf_nbuf s h' b ▸ State.lt_nbuf_of_alloc halloc
      rw [State.setBuf_buf_same b hh] at halloc
      exact ha halloc
    · rwa [State.setBuf_buf_other s b hne] at halloc

/-- A context written with an accumulator of the same draw. -/
theorem State.setCtx_keepsDraws (s : State) (k : Nat) {c : Context} (hd : c.acc.draw = (s.ctx k).acc.draw) :
    s.keepsDraws (s.setCtx k c) where
  bufs := rfl
  ctxs := map_set_of_eq (fun c : Context => c.acc.draw) s.ctxs k (Context.afterReset 0) hd
  txMem := rfl
  next := rfl
  alloc _ ha := ha

theorem State.destroyCtx_keepsDraws (s : State) (k : Nat) : s.keepsDraws (s.destroyCtx k) :=
  s.setCtx_keepsDraws k rfl

theorem State.destroyKey_keepsDraws (s : State) (src : Byte) (tag : BitVec 3) :
    s.keepsDraws (s.destroyKey src tag) := by
  unfold State.destroyKey
  split
  · exact .of_stores rfl rfl rfl rfl
  · next k _ => exact s.destroyCtx_keepsDraws k

theorem State.flushAll_keepsDraws (s : State) :
    s.keepsDraws { s with ctxs := s.ctxs.map (fun c => { c with valid := false }) } where
  bufs := rfl
  ctxs := List.map_map
  txMem := rfl
  next := rfl
  alloc _ ha := ha

theorem State.writeTxMem_keepsDraws (s : State) (a : Nat) (v : Byte) :
    s.keepsDraws { s with txMem := s.txMem.write a v } where
  bufs := rfl
  ctxs := rfl
  txMem := Memory.write_draw s.txMem a v
  next := rfl
  alloc _ ha := ha

theorem State.consumed_keepsDraws (s : State) (h : Byte) : s.keepsDraws (s.consumed h) :=
  s.setBuf_keepsDraws h.toNat rfl nofun

theorem State.retirePacket_keepsDraws (s : State) : s.keepsDraws s.retirePacket :=
  s.setBuf_keepsDraws s.tx.cur rfl nofun

theorem State.ackPacket_keepsDraws (s : State) : s.keepsDraws s.ackPacket :=
  s.retirePacket_keepsDraws.trans (s.retirePacket.withTx_keepsDraws _)

/-! ### The allocation of a buffer -/

theorem State.allocBuffer_drawsAnew {h : Nat} (hfree : s.freeHandle = some h) (o : Owner) (plen : Nat) :
    s.drawsAnew h (s.allocBuffer h o plen) := by
  obtain ⟨hlt, hnot, -⟩ := State.freeHandle_eq_some.mp hfree
  exact
    { lt := hlt
      free := hnot
      bufs := List.map_set
      ctxs := rfl
      txMem := rfl
      next := rfl
      alloc := fun h' hne ha => by rwa [State.allocBuffer_buf_other s o plen hne] at ha }

theorem State.arenaWriteN_keepsDraws {h off : Nat} {bs : List Byte} (hw : s.arenaWriteN h off bs = some t) :
    s.keepsDraws t := by
  obtain ⟨-, rfl⟩ := State.arenaWriteN_some hw
  exact s.setBuf_keepsDraws h (Memory.writeN_draw _ off bs) id

/-- A packet step that answers has allocated the buffer and written the packet's bytes into it
(43_fragmentation.md R203). -/
theorem sendPacket_next {h : Nat} (hsend : sendPacket s h = .next t) :
    ∃ (bytes frame : List Byte) (u : State),
      (s.allocBuffer h .txeng (chunkLen s.tx.len s.tx.i)).arenaWriteN h s.params.headroom bytes = some u ∧
      t = ({ u with tx := { u.tx with cur := h, phase := .waitAck } } : State).emit (.pktOut h frame) := by
  unfold sendPacket at hsend
  dsimp only at hsend
  split at hsend
  · cases hsend
  split at hsend
  · cases hsend
  next u hw =>
  split at hsend
  · cases hsend
  next frame _ =>
  cases hsend
  exact ⟨_, frame, u, hw, rfl⟩

theorem sendPacket_drawsAnew {h : Nat} (hfree : s.freeHandle = some h) (hsend : sendPacket s h = .next t) :
    s.drawsAnew h t := by
  obtain ⟨_, _, u, hw, rfl⟩ := sendPacket_next hsend
  have halloc := State.allocBuffer_drawsAnew hfree .txeng (chunkLen s.tx.len s.tx.i)
  exact (halloc.trans (State.arenaWriteN_keepsDraws hw)).trans (.of_stores rfl rfl rfl rfl)

/-! ### The effects of a step -/

theorem ContextEffect.keepsDraws {src : Byte} {tag : BitVec 3} {pay : List Byte} (h : ContextEffect src tag pay s t) :
    s.keepsDraws t := by
  cases h with
  | kept => exact .of_stores rfl rfl rfl rfl
  | destroyed k => exact s.destroyCtx_keepsDraws k
  | opened k =>
    exact (s.destroyKey_keepsDraws src tag).trans (State.setCtx_keepsDraws _ k (Memory.writeN_draw _ _ _))
  | extended k | completed k => exact s.setCtx_keepsDraws k (Memory.writeN_draw _ _ _)

theorem PacketAnswer.keepsDraws (h : PacketAnswer s t) : s.keepsDraws t := by
  cases h with
  | accepted | dropped | delivered => exact .of_stores rfl rfl rfl rfl

theorem reassemble_keepsDraws (s : State) (hd : Header) (pay : List Byte) : s.keepsDraws (reassemble s hd pay) := by
  obtain ⟨u, hctx, hans⟩ := reassemble_effect s pay hd
  exact hctx.keepsDraws.trans hans.keepsDraws

theorem CommandEffect.drawsStep {i : Instr} (h : CommandEffect i s t) : s.drawsStep t := by
  cases h with
  | allocated b _ hfree =>
    exact .inr ⟨b, (State.allocBuffer_drawsAnew hfree _ _).trans (.of_stores rfl rfl rfl rfl)⟩
  | answered | faulted | startedExplicit | startedAuto | tagFreed | wroteGate =>
    exact .inl (.of_stores rfl rfl rfl rfl)
  | freed => exact .inl (s.consumed_keepsDraws _).respond
  | grewFront | grewBack | byteWritten =>
    refine .inl (.respond ?_)
    exact s.setBuf_keepsDraws _ rfl id
  | appended =>
    refine .inl (.respond ?_)
    exact s.setBuf_keepsDraws _ (Memory.writeN_draw _ _ _) id
  | txByteWritten => exact .inl (s.writeTxMem_keepsDraws _ _).respond
  | sendFailed => exact .inl (s.retirePacket_keepsDraws.trans (State.finish_keepsDraws _ .errBinding)).respond
  | messageSent => exact .inl (s.ackPacket_keepsDraws.trans (State.finish_keepsDraws _ .ok)).respond
  | packetSent => exact .inl (s.ackPacket_keepsDraws.trans (State.withTx_keepsDraws _ _)).respond
  | received => exact .inl ((s.consumed_keepsDraws _).trans (reassemble_keepsDraws _ _ _))
  | flushedAll => exact .inl s.flushAll_keepsDraws.respond
  | flushedKey k => exact .inl (s.destroyCtx_keepsDraws k).respond
  | wroteCfg => exact .inl (writeCfg_keepsDraws _ s)

theorem TurnEffect.drawsStep (h : TurnEffect s t) : s.drawsStep t := by
  cases h with
  | nothing => exact .inl (.of_stores rfl rfl rfl rfl)
  | ended code => exact .inl (s.finish_keepsDraws code)
  | sent b _ _ hfree hsend => exact .inr ⟨b, sendPacket_drawsAnew hfree hsend⟩

/-- Taking an input off the list changes nothing that `drawsStep` speaks of. -/
theorem State.drawsStep.of_begin {rest : List Input} (h : (s.begin rest).drawsStep t) : s.drawsStep t := by
  obtain hkeep | ⟨b, hlt, hfree, hbufs, hctxs, htxMem, hnext, halloc⟩ := h
  · exact .inl ((s.begin_keepsDraws rest).trans hkeep)
  · exact .inr ⟨b, hlt, hfree, hbufs, hctxs, htxMem, hnext, halloc⟩

theorem StepEffect.drawsStep (h : StepEffect s t) :
    s.drawsStep t ∨ ∃ rest, s.inputs = .reset :: rest ∧ t = resetStep (s.begin rest) := by
  cases h with
  | idle | turnedAway | undecodable => exact .inl (.inl (.of_stores rfl rfl rfl rfl))
  | command _ _ _ _ _ _ he => exact .inl he.drawsStep.of_begin
  | turn _ _ _ he => exact .inl he.drawsStep.of_begin
  | reset rest hin => exact .inr ⟨rest, hin, rfl⟩

/-! ### The draws stay different and past -/

/-- After reset the stores have the next NBUF + NCTX + 1 draws, in order (log 2). -/
theorem State.afterReset_allDraws (p : Config.Params) (draw : Nat) :
    (State.afterReset p draw).allDraws = List.range' draw (p.nbuf + p.nctx + 1) := by
  have hbufs : (State.afterReset p draw).bufDraws = List.range' draw p.nbuf := by
    rw [List.range'_eq_map_range]
    exact List.map_map
  have hctxs : (State.afterReset p draw).ctxDraws = List.range' (draw + p.nbuf) p.nctx := by
    rw [List.range'_eq_map_range]
    exact List.map_map
  calc (State.afterReset p draw).allDraws
    _ = List.range' draw p.nbuf ++ List.range' (draw + p.nbuf) p.nctx ++ [draw + p.nbuf + p.nctx] := by
      unfold State.allDraws; rw [hbufs, hctxs]; rfl
    _ = List.range' draw (p.nbuf + p.nctx) ++ List.range' (draw + (p.nbuf + p.nctx)) 1 := by
      rw [List.range'_append_1, Nat.add_assoc]; rfl
    _ = List.range' draw (p.nbuf + p.nctx + 1) := List.range'_append_1

theorem State.afterReset_drawsFresh (p : Config.Params) (draw : Nat) : (State.afterReset p draw).drawsFresh := by
  rw [State.drawsFresh_iff, State.afterReset_allDraws]
  refine ⟨List.nodup_range' 1, fun d hd => ?_⟩
  show d < draw + p.nbuf + p.nctx + 1
  have hrange := List.mem_range'_1.mp hd
  omega

theorem resetStep_drawsFresh (s : State) : (resetStep s).drawsFresh := State.afterReset_drawsFresh s.params s.draws

theorem State.keepsDraws.allDraws (h : s.keepsDraws t) : t.allDraws = s.allDraws := by
  unfold State.allDraws
  rw [h.bufs, h.ctxs, h.txMem]

theorem State.drawsAnew.allDraws {b : Nat} (h : s.drawsAnew b t) : t.allDraws = s.allDraws.set b s.draws := by
  have hlt : b < s.bufDraws.length := by rw [State.bufDraws_length]; exact h.lt
  unfold State.allDraws
  rw [h.bufs, h.ctxs, h.txMem, List.append_assoc, List.append_assoc, List.set_append_left b s.draws hlt]

/-- The draw of an allocation is past every other, and it is counted. -/
theorem State.drawsStep.drawsFresh (h : s.drawsStep t) (hs : s.drawsFresh) : t.drawsFresh := by
  obtain ⟨hnodup, hpast⟩ := State.drawsFresh_iff.mp hs
  rw [State.drawsFresh_iff]
  obtain hkeep | ⟨b, hnew⟩ := h
  · rw [hkeep.allDraws, hkeep.next]
    exact ⟨hnodup, hpast⟩
  · rw [hnew.allDraws, hnew.next]
    refine ⟨hnodup.set fun hmem => Nat.lt_irrefl _ (hpast _ hmem), fun d hd => ?_⟩
    obtain hmem | rfl := List.mem_or_eq_of_mem_set hd
    · exact Nat.lt_succ_of_lt (hpast d hmem)
    · exact Nat.lt_succ_self _

/-! ### The draw of each store -/

theorem State.keepsDraws.buf_draw (h : s.keepsDraws t) (b : Nat) : (t.buf b).data.draw = (s.buf b).data.draw := by
  rw [State.buf_draw, State.buf_draw, h.bufs]

theorem State.drawsAnew.buf_draw_same {b : Nat} (h : s.drawsAnew b t) : (t.buf b).data.draw = s.draws := by
  have hlt : b < s.bufDraws.length := by rw [State.bufDraws_length]; exact h.lt
  rw [State.buf_draw, h.bufs, List.getD_eq_getElem?_getD, List.getElem?_set_self hlt]
  rfl

theorem State.drawsAnew.buf_draw_other {b b' : Nat} (h : s.drawsAnew b t) (hne : b' ≠ b) :
    (t.buf b').data.draw = (s.buf b').data.draw := by
  rw [State.buf_draw, State.buf_draw, h.bufs]
  simp [hne.symm]

/-- A buffer that becomes allocated is drawn anew. -/
theorem State.drawsStep.new_draw (h : s.drawsStep t) {b : Nat} (hfree : (s.buf b).alloc = false)
    (halloc : (t.buf b).alloc = true) : s.draws ≤ (t.buf b).data.draw := by
  have hnot : ¬(s.buf b).alloc = true := by simp [hfree]
  obtain hkeep | ⟨b', hnew⟩ := h
  · exact absurd (hkeep.alloc b halloc) hnot
  · by_cases hb : b = b'
    · subst hb
      exact Nat.le_of_eq hnew.buf_draw_same.symm
    · exact absurd (hnew.alloc b hb halloc) hnot

/-- An allocated buffer keeps its draw. -/
theorem State.drawsStep.kept_draw (h : s.drawsStep t) {b : Nat} (halloc : (s.buf b).alloc = true) :
    (t.buf b).data.draw = (s.buf b).data.draw := by
  obtain hkeep | ⟨b', hnew⟩ := h
  · exact hkeep.buf_draw b
  · refine hnew.buf_draw_other fun hb => ?_
    subst hb
    exact nomatch halloc.symm.trans hnew.free

theorem State.drawsStep.ctx_draw (h : s.drawsStep t) (k : Nat) : (t.ctx k).acc.draw = (s.ctx k).acc.draw := by
  have hctxs : t.ctxDraws = s.ctxDraws := by
    obtain hkeep | ⟨_, hnew⟩ := h
    · exact hkeep.ctxs
    · exact hnew.ctxs
  rw [State.ctx_draw, State.ctx_draw, hctxs]

theorem State.drawsStep.txMem_draw (h : s.drawsStep t) : t.txMem.draw = s.txMem.draw := by
  obtain hkeep | ⟨_, hnew⟩ := h
  · exact hkeep.txMem
  · exact hnew.txMem

end Draws

/-- Settles O13, by the cases of what a step does to the draws; the reset step's fresh draws are those that
`resetWritesEveryElement` names. -/
theorem stepKeepsDrawsFresh : Obligations.StepKeepsDrawsFresh := by
  refine ⟨State.afterReset_drawsFresh, fun s t hs h => ?_, fun s t hin h => ?_, fun s rest hin => ?_⟩
  · obtain hstep | ⟨rest, -, rfl⟩ := (step_effect h).drawsStep
    · exact hstep.drawsFresh hs
    · exact resetStep_drawsFresh (s.begin rest)
  · obtain hstep | ⟨rest, hreset, -⟩ := (step_effect h).drawsStep
    · exact ⟨fun _ => hstep.new_draw, fun _ => hstep.kept_draw, hstep.ctx_draw, hstep.txMem_draw⟩
    · exact absurd hreset (hin rest)
  · obtain ⟨t, hstep, -, -, -, -, -, -, -, -, hbufs, -, hctxs, -, -, htxMem, -⟩ := resetWritesEveryElement s rest hin
    refine ⟨t, hstep, fun h hh => ?_, fun k hk => ?_, htxMem⟩
    · obtain ⟨-, -, -, -, -, -, hdraw⟩ := hbufs h hh
      exact hdraw
    · obtain ⟨-, -, -, -, -, -, hdraw⟩ := hctxs k hk
      exact hdraw

end Sys2Proof.Machine
end

section
/-! PROOF. From the invariant no step stops (20_memory.md R61, R62): where a command or the TX engine calls a primitive, the
checks before the call and the window of 10_state.md R31 give its requirement. -/

namespace Sys2Proof.Machine

/-- A meaning goes on: it answers a next state. -/
def Answers (r : Result) : Prop := ∃ t, r = .next t

section Answers

variable {s : State}

theorem Answers.next (t : State) : Answers (.next t) := ⟨t, rfl⟩

theorem Answers.stepSafe {r : Result} (h : Answers r) : stepSafe r := by
  obtain ⟨t, rfl⟩ := h
  trivial

/-- The one refusal of a safe step (30_encoding.md R90; log 8). -/
theorem stepSafe_notATransaction : stepSafe (.refused .notATransaction) := rfl

/-! ### The guards -/

theorem whenRunning_answers {k : Result} (hk : s.halted = false → Answers k) : Answers (whenRunning s k) := by
  cases hr : s.halted with
  | true => rw [whenRunning_of_halted hr]; exact .next _
  | false => rw [whenRunning_of_running hr]; exact hk hr

theorem withHandle_answers {op : Opcode} {h : Byte} {k : Buffer → Result}
    (hk : s.halted = false → s.live h → Answers (k (s.buf h.toNat))) : Answers (withHandle s op h k) := by
  obtain ⟨-, e⟩ | ⟨-, -, e⟩ | ⟨-, -, -, e⟩ | ⟨hr, hl, e⟩ := withHandle_cases s op h k <;> rw [e]
  · exact .next _
  · exact .next _
  · exact .next _
  · exact hk hr hl

theorem withOwnHandle_answers {op : Opcode} {h : Byte} {k : Buffer → Result}
    (hk : s.halted = false → s.live h → (s.buf h.toNat).owner = .cmd → Answers (k (s.buf h.toNat))) :
    Answers (withOwnHandle s op h k) := by
  refine withHandle_answers fun hr hl => ?_
  cases ho : (s.buf h.toNat).owner with
  | txeng => rw [if_pos rfl]; exact .next _
  | cmd => rw [if_neg (by decide)]; exact hk hr hl ho

/-- RD8 and WR8 reach a byte of the backing array only (20_memory.md R61). -/
theorem withByte_answers (hs : s.Inv) {op : Opcode} {h : Byte} {rg : Region} {idx : BitVec 16} {k : Nat → Result}
    (hk : ∀ off, s.live h → off < s.cap → Answers (k off)) : Answers (withByte s op h rg idx k) := by
  refine withHandle_answers fun _ hl => ?_
  obtain ⟨hw, -⟩ := hs.buf_ok hl.1
  split
  · exact .next _
  · next base len hreg =>
    split
    · exact .next _
    · next hidx => exact hk _ hl (Buffer.region_lt_cap hl.2 hw hreg (Nat.lt_of_not_le hidx))

/-! ### The commands that call a primitive -/

theorem execAppend_answers (h : Byte) (data : List Byte) (s : State) : Answers (execAppend h data s) := by
  refine withHandle_answers fun _ hl => ?_
  split
  · exact .next _
  · next hfit =>
    rw [State.arenaWriteN_eq hl.1 hl.2 (Nat.le_of_not_lt hfit)]
    exact .next _

theorem execRd8_answers (hs : s.Inv) (h : Byte) (rg : Region) (idx : BitVec 16) : Answers (execRd8 h rg idx s) := by
  refine withByte_answers hs fun off hl hoff => ?_
  rw [State.arenaRead_eq hl.1 hl.2 hoff]
  exact .next _

theorem execWr8_answers (hs : s.Inv) (h : Byte) (rg : Region) (idx : BitVec 16) (d : Byte) :
    Answers (execWr8 h rg idx d s) := by
  refine withByte_answers hs fun off hl hoff => ?_
  rw [State.arenaWrite_eq hl.1 hl.2 hoff]
  exact .next _

theorem execTxwr_answers (addr : BitVec 16) (d : Byte) (s : State) : Answers (execTxwr addr d s) := by
  refine whenRunning_answers fun _ => ?_
  split
  · exact .next _
  next haddr =>
  split
  · exact .next _
  · rw [State.txMemWrite_eq (Nat.lt_of_not_le haddr)]
    exact .next _

theorem execRxpkt_answers (hs : s.Inv) (h : Byte) : Answers (execRxpkt h s) := by
  refine withOwnHandle_answers fun hr hl ho => ?_
  obtain ⟨hw, -⟩ := hs.buf_ok hl.1
  have hready := execRxpkt_ready ⟨hr, hl, ho, hw⟩
  rw [execRxpkt, withOwnHandle_live hr hl, if_neg (by rw [ho]; decide)] at hready
  exact ⟨_, hready⟩

theorem sendPacket_answers (hs : s.Inv) {h : Nat} (hfree : s.freeHandle = some h) : Answers (sendPacket s h) := by
  obtain ⟨hh, -, -⟩ := State.freeHandle_eq_some.mp hfree
  obtain ⟨-, -, hlen, -, -⟩ := hs.txInv.fieldsOk
  exact ⟨_, sendPacket_eq hh hlen⟩

/-! ### The commands that call none -/

theorem execAlloc_answers (len : BitVec 16) (s : State) : Answers (execAlloc len s) := by
  refine whenRunning_answers fun _ => ?_
  split
  · exact .next _
  · split <;> exact .next _

theorem execFree_answers (h : Byte) (s : State) : Answers (execFree h s) :=
  withOwnHandle_answers fun _ _ _ => .next _

theorem view_answers (s : State) (op : Opcode) (h : Byte) (view : Buffer → Word32) :
    Answers (withHandle s op h fun b => .next (s.respond .ok (view b))) :=
  withHandle_answers fun _ _ => .next _

theorem execGrowf_answers (h : Byte) (n : BitVec 16) (s : State) : Answers (execGrowf h n s) := by
  refine withHandle_answers fun _ _ => ?_
  split <;> exact .next _

theorem execGrowb_answers (h : Byte) (n : BitVec 16) (s : State) : Answers (execGrowb h n s) := by
  refine withHandle_answers fun _ _ => ?_
  split <;> exact .next _

theorem execTxmsg_answers (dest : Byte) (mode : TagMode) (len : BitVec 16) (s : State) :
    Answers (execTxmsg dest mode len s) := by
  refine whenRunning_answers fun _ => ?_
  split
  · exact .next _
  split
  · exact .next _
  split
  · exact .next _
  cases mode with
  | explicit tag => exact .next _
  | auto => dsimp only; split <;> exact .next _

theorem execTxack_answers (st : Byte) (s : State) : Answers (execTxack st s) := by
  refine whenRunning_answers fun _ => ?_
  split
  · dsimp only
    split
    · split <;> exact .next _
    · exact .next _
  · exact .next _

theorem execCtxflush_answers (sel : FlushSel) (s : State) : Answers (execCtxflush sel s) := by
  refine whenRunning_answers fun _ => ?_
  cases sel with
  | all => exact .next _
  | key src tag => dsimp only; split <;> exact .next _

theorem execCsrr_answers (csr : Byte) (s : State) : Answers (execCsrr csr s) := by
  unfold execCsrr
  split
  · exact .next _
  · exact whenRunning_answers fun _ => .next _

theorem execCsrw_answers (csr : Byte) (val : Word32) (s : State) : Answers (execCsrw csr val s) := by
  refine whenRunning_answers fun _ => ?_
  split
  · exact .next _
  · exact .next _
  · split <;> exact .next _

/-! ### The step -/

theorem exec_answers (hs : s.Inv) (i : Instr) : Answers (exec i s) := by
  cases i with
  | append h data => exact execAppend_answers h data s
  | rd8 h rg idx => exact execRd8_answers hs h rg idx
  | wr8 h rg idx d => exact execWr8_answers hs h rg idx d
  | txwr addr d => exact execTxwr_answers addr d s
  | rxpkt h => exact execRxpkt_answers hs h
  | alloc len => exact execAlloc_answers len s
  | growf h n => exact execGrowf_answers h n s
  | growb h n => exact execGrowb_answers h n s
  | txmsg dest mode len => exact execTxmsg_answers dest mode len s
  | txack st => exact execTxack_answers st s
  | ctxflush sel => exact execCtxflush_answers sel s
  | csrr csr => exact execCsrr_answers csr s
  | csrw csr val => exact execCsrw_answers csr val s
  | free h => exact execFree_answers h s
  | hdrv h => exact show Answers (execHdrv h s) from view_answers s .hdrv h _
  | payv h => exact show Answers (execPayv h s) from view_answers s .payv h _
  | size h => exact show Answers (execSize h s) from view_answers s .size h _
  | winv h => exact show Answers (execWinv h s) from view_answers s .winv h _
  | nop | henc _ _ _ | hdec _ | tagfree _ _ => exact whenRunning_answers fun _ => .next _

theorem decodeFault_answers (cause : Cause) (w : Word64) (s : State) : Answers (decodeFault cause w s) :=
  whenRunning_answers fun _ => .next _

theorem txEngineStep_answers (hs : s.Inv) : Answers (txEngineStep s) := by
  obtain ⟨-, e⟩ | ⟨-, -, e⟩ | ⟨-, -, -, e⟩ | ⟨h, -, -, hfree, e⟩ := txEngineStep_cases s <;> rw [e]
  · exact .next _
  · exact .next _
  · exact .next _
  · exact sendPacket_answers hs hfree

theorem runTransaction_safe (hs : s.Inv) (words : List Word64) : stepSafe (runTransaction words s) := by
  obtain ⟨i, -, e⟩ | ⟨c, -, e⟩ | e := runTransaction_cases words s
  · exact e ▸ (exec_answers hs i).stepSafe
  · exact e ▸ (decodeFault_answers c _ s).stepSafe
  · exact e ▸ stepSafe_notATransaction

end Answers

/-- Settles O12, by the agent whose turn is next: every command goes on, and so do the TX engine's turn and reset. -/
theorem invariantStepsNeverStop : Obligations.InvariantStepsNeverStop := by
  intro s hs
  obtain ⟨-, e⟩ | ⟨words, rest, -, e⟩ | ⟨rest, -, e⟩ | ⟨rest, -, e⟩ := step_cases s <;> rw [e]
  · exact (Answers.next _).stepSafe
  · exact runTransaction_safe (hs.begin rest) words
  · exact (txEngineStep_answers (hs.begin rest)).stepSafe
  · exact (Answers.next _).stepSafe

end Sys2Proof.Machine
end

section
/-! PROOF. The commands that only read (20_memory.md R69): a response is their only effect, and none of them reads it. -/

namespace Sys2Proof.Machine

section Reads

variable {i : Instr} {s t : State}

/-- A fault recorded over an equal record writes nothing but the response. -/
theorem State.raise_of_same_fault {op : Byte} {c : Cause} {info : Byte} (h : (s.raise op c info).fault = s.fault) :
    s.raise op c info = s.respond .fault 0#32 := by
  rw [State.raise_fault] at h
  unfold State.raise
  rw [h]

/-- Where it does not fault, a command that only reads changes nothing but its response. -/
theorem CommandEffect.respond_of_readsOnly (h : CommandEffect i s t) (hread : readsOnly i = true)
    (hfault : t.fault = s.fault) : ∃ st data, t = s.respond st data := by
  cases h with
  | answered st data => exact ⟨st, data, rfl⟩
  | faulted c info _ => exact ⟨.fault, 0#32, State.raise_of_same_fault hfault⟩
  | _ => contradiction

/-- What a command that only reads answers does not depend on the last response. -/
theorem exec_respond_of_readsOnly (hread : readsOnly i = true) (s : State) (st : Status) (data : Word32) :
    exec i (s.respond st data) = exec i s := by
  cases i with
  | nop | hdrv h | payv h | size h | winv h | rd8 h rg idx | henc dest src ctl | hdec hdr32 | csrr csr => rfl
  | _ => contradiction

end Reads

/-- Settles O19: a read leaves the state as it was but for the response, which no read depends on. -/
theorem readsHaveNoSideEffect : Obligations.ReadsHaveNoSideEffect := by
  intro i s t hread h hfault
  obtain ⟨st, data, rfl⟩ := (exec_effect h).respond_of_readsOnly hread hfault
  exact ⟨rfl, (exec_respond_of_readsOnly hread s st data).trans h⟩

end Sys2Proof.Machine
end

section
/-! PROOF. What the formats and the decoder do, said once (30_encoding.md R90 to R107): a word as the fields at
their places, APPEND's bytes in their beats, the bits an opcode leaves to its operands, and each outcome of the decoder. -/

namespace Sys2Proof

/-! ### Fields and their places -/

@[simp] theorem place_zero (n lo : Nat) : place 0#n lo = 0#64 := by simp [place]

theorem place_word (w : Word64) : place w 0 = w := by simp [place]

/-- Two words are equal where the one is the other's bits at their place. -/
theorem eq_of_eq_place {v w : Word64} (h : w = place v 0) : w = v := h.trans (place_word v)

/-- Two neighbouring fields stand at their own places. The index leaves the joined width out, which the formats write as a
number and not as a sum. -/
theorem place_append {n m : Nat} (x : BitVec n) (y : BitVec m) (lo : Nat) :
    place (no_index (x ++ y)) lo = place x (lo + m) ||| place y lo := by
  apply BitVec.eq_of_getLsbD_eq
  intro i hi
  simp only [place, BitVec.getLsbD_or, BitVec.getLsbD_shiftLeft, BitVec.getLsbD_setWidth, BitVec.getLsbD_append]
  by_cases hlo : i < lo
  · have hlo' : i < lo + m := by omega
    simp [hlo, hlo']
  · by_cases hm : i - lo < m
    · have hlo' : i < lo + m := by omega
      simp [hm, hlo']
    · have hlo' : ¬ i < lo + m := by omega
      have h64 : i - lo < 64 := by omega
      have h64' : i - (lo + m) < 64 := by omega
      simp [hlo, hm, hlo', hi, h64, h64', Nat.sub_sub, BitVec.getLsbD_of_ge y (i - lo) (by omega)]

/-- A field put back at its place is the word with every other bit cleared. -/
theorem place_field (w : Word64) (lo n : Nat) : place (field w lo n) lo = w &&& place (BitVec.allOnes n) lo := by
  apply BitVec.eq_of_getLsbD_eq
  intro i hi
  simp only [place, field, BitVec.getLsbD_and, BitVec.getLsbD_shiftLeft, BitVec.getLsbD_setWidth,
    BitVec.getLsbD_extractLsb', BitVec.getLsbD_allOnes]
  by_cases hlo : i < lo
  · simp [hlo]
  · have e : lo + (i - lo) = i := by omega
    have h64 : i - lo < 64 := by omega
    simp [hlo, hi, e, h64, Bool.and_comm]

/-- A word clear of the reserved bits is what the other bits of it are. -/
theorem and_eq_self_of_reserved {w kept reserved : Word64} (hw : w &&& reserved = 0#64)
    (hall : kept ||| reserved = BitVec.allOnes 64) : w &&& kept = w := by
  calc w &&& kept = w &&& kept ||| w &&& reserved := by rw [hw, BitVec.or_zero]
    _ = w &&& (kept ||| reserved) := BitVec.and_or_distrib_left.symm
    _ = w := by rw [hall, BitVec.and_allOnes]

/-! ### Operand codes -/

@[simp] theorem bits_regionOf (rg : BitVec 2) : (regionOf rg).bits = rg := by
  revert rg; decide

@[simp] theorem ctlEncode_ctlDecode (b : Byte) : ctlEncode (ctlDecode b) = b := by
  revert b; decide

@[simp] theorem ctlDecode_ctlEncode (c : Control) : ctlDecode (ctlEncode c) = c := by
  obtain ⟨som, eom, seq, tagOwner, tag⟩ := c
  revert som eom seq tagOwner tag; decide

/-! ### APPEND's data beats (30_encoding.md R102) -/

/-- Byte `r` of a beat, the first the most significant. -/
theorem field_dataBeat (data : List Byte) (k : Nat) {r : Nat} (hr : r < 8) :
    field (dataBeat data k) (56 - 8 * r) 8 = data.getD (8 * k + r) 0#8 := by
  interval_cases r <;> simp [dataBeat, field_place_same, field_place_disjoint]

theorem div_lt_ceilDiv {j n : Nat} (h : j < n) : j / 8 < ceilDiv n 8 := by
  unfold ceilDiv; omega

/-- Data byte `j` reads back from APPEND's beats. -/
theorem beatByte_append (h : Byte) (data : List Byte) {j : Nat} (hj : j < data.length) :
    beatByte (Instr.append h data).beats j = data[j] := by
  have hbeat : (Instr.append h data).beats.getD (j / 8) 0#64 = dataBeat data (j / 8) := by
    simp [Instr.beats, div_lt_ceilDiv hj]
  rw [beatByte, hbeat, field_dataBeat data _ (Nat.mod_lt j (by decide)), Nat.div_add_mod,
    List.getD_eq_getElem data _ hj]

theorem map_beatByte_append (h : Byte) (data : List Byte) :
    (List.range data.length).map (beatByte (Instr.append h data).beats) = data :=
  List.ext_getElem (by simp) fun j _ hj => by simp [beatByte_append h data hj]

/-! ### The decoder, outcome by outcome (30_encoding.md R105, R107) -/

/-- The conditional reserved bits of R100 and R101: TAG with TM = 1, SRC or TAG with ALL = 1. -/
def conditionalReserved (w : Word64) (o : Opcode) : Prop :=
  (o = .txmsg ∧ field w 47 1 = 1#1 ∧ field w 40 3 ≠ 0#3) ∨
  (o = .ctxflush ∧ field w 47 1 = 1#1 ∧ (field w 48 8 ≠ 0#8 ∨ field w 40 3 ≠ 0#3))

section Decode

variable {w : Word64} {beats : List Word64} {o : Opcode}

theorem opcodeOf_eq_none {op : Byte} (h : ∀ o : Opcode, o.code ≠ op) : opcodeOf op = none :=
  Option.eq_none_iff_forall_ne_some.mpr fun o ho => h o (opcodeOf_eq_some ho)

theorem decode_of_illegal (hlen : beats.length = beatCount w) (hop : ∀ o : Opcode, o.code ≠ opField w) :
    decode (w :: beats) = .error .illegalOpcode := by
  simp [decode, hlen, opcodeOf_eq_none hop]

theorem decode_of_reserved (hlen : beats.length = beatCount w) (hop : o.code = opField w)
    (hres : w &&& o.reservedMask ≠ 0#64) : decode (w :: beats) = .error .reservedField := by
  simp [decode, hlen, ← hop, hres]

theorem decode_of_clear (hlen : beats.length = beatCount w) (hop : o.code = opField w)
    (hres : w &&& o.reservedMask = 0#64) : decode (w :: beats) = decodeFields w beats o := by
  simp [decode, hlen, ← hop, hres]

/-- A word that decodes has its opcode, its number of beats and no reserved bit. -/
theorem decode_ok {i : Instr} (h : decode (w :: beats) = .ok i) :
    ∃ o : Opcode, beats.length = beatCount w ∧ o.code = opField w ∧ w &&& o.reservedMask = 0#64 ∧
      decodeFields w beats o = .ok i := by
  by_cases hlen : beats.length = beatCount w
  · cases hop : opcodeOf (opField w) with
    | none => simp [decode, hlen, hop] at h
    | some o =>
      by_cases hres : w &&& o.reservedMask = 0#64
      · have ho := opcodeOf_eq_some hop
        exact ⟨o, hlen, ho, hres, (decode_of_clear hlen ho hres).symm.trans h⟩
      · simp [decode, hlen, hop, hres] at h
  · simp [decode, hlen] at h

end Decode

/-! ### A command read from a word -/

/-- The bits of an opcode's format that hold operands. -/
def Opcode.operandMask (o : Opcode) : Word64 := ~~~(place (BitVec.allOnes 8) 56 ||| o.reservedMask)

/-- OP, operands and reserved bits are the whole word (30_encoding.md R91). -/
theorem Opcode.format_covers (o : Opcode) :
    (place (BitVec.allOnes 8) 56 ||| o.operandMask) ||| o.reservedMask = BitVec.allOnes 64 := by
  cases o <;> decide

/-- `i` is the command of opcode `o` that the fields of `w` and the used bytes of `beats` give. -/
structure Instr.ReadFrom (w : Word64) (beats : List Word64) (o : Opcode) (i : Instr) : Prop where
  opcode : i.opcode = o
  bits : i.operandBits = w &&& o.operandMask
  wf : i.wf
  data : ∀ (h : Byte) (data : List Byte), i = .append h data →
    ∀ j (hj : j < data.length), data[j] = beatByte beats j

section Read

variable {w : Word64} {beats : List Word64} {o : Opcode} {i : Instr}

/-- The operand bits of a command with one field of the word. -/
theorem field_eq_and {lo n : Nat} {m : Word64} (hm : place (BitVec.allOnes n) lo = m) :
    place (field w lo n) lo = w &&& m := by
  rw [place_field, hm]

/-- A further field of the word joins those before it. -/
theorem or_field_eq_and {x a m : Word64} {lo n : Nat} (hx : x = w &&& a) (hm : a ||| place (BitVec.allOnes n) lo = m) :
    x ||| place (field w lo n) lo = w &&& m := by
  rw [hx, place_field, ← BitVec.and_or_distrib_left, hm]

/-- A command read from a word that is clear of the reserved bits has that word. -/
theorem Instr.ReadFrom.word_eq (hi : i.ReadFrom w beats o) (hop : o.code = opField w)
    (hres : w &&& o.reservedMask = 0#64) : i.word = w := by
  calc i.word = place (opField w) 56 ||| w &&& o.operandMask := by rw [Instr.word, hi.opcode, hop, hi.bits]
    _ = w &&& (place (BitVec.allOnes 8) 56 ||| o.operandMask) := by
      rw [opField, place_field, BitVec.and_or_distrib_left]
    _ = w := and_eq_self_of_reserved hres o.format_covers

/-- Only APPEND has more to show than its opcode and its operand bits. -/
theorem Instr.ReadFrom.of_ne_append (ho : i.opcode = o) (hne : o ≠ .append)
    (hbits : i.operandBits = w &&& o.operandMask) : i.ReadFrom w beats o := by
  subst ho
  refine ⟨rfl, hbits, ?_, fun h data e => absurd (congrArg Instr.opcode e) hne⟩
  cases i with
  | append h data => exact absurd rfl hne
  | _ => trivial

/-- APPEND takes its byte count from N16 and its bytes from the beats (30_encoding.md R95, R102). -/
theorem Instr.ReadFrom.append :
    (Instr.append (field w 48 8) ((List.range (field w 0 16).toNat).map (beatByte beats))).ReadFrom w beats .append := by
  have hlen : ((List.range (field w 0 16).toNat).map (beatByte beats)).length = (field w 0 16).toNat := by simp
  refine ⟨rfl, ?_, ?_, ?_⟩
  · rw [Instr.operandBits, hlen, BitVec.ofNat_toNat, BitVec.setWidth_eq]
    exact or_field_eq_and (field_eq_and rfl) (by decide)
  · rw [Instr.wf, hlen]
    exact (field w 0 16).isLt
  · rintro _ _ ⟨⟩ j hj
    simp

/-- TXMSG takes TAG with TM = 0 and no tag with TM = 1 (30_encoding.md R100). -/
theorem decodeFields_txmsg (hc : ¬conditionalReserved w .txmsg) :
    ∃ i, decodeFields w beats .txmsg = .ok i ∧ i.ReadFrom w beats .txmsg := by
  have hbits : place (field w 48 8) 48 ||| place (field w 47 1) 47 ||| place (field w 40 3) 40 |||
      place (field w 0 16) 0 = w &&& Opcode.txmsg.operandMask :=
    or_field_eq_and (or_field_eq_and (or_field_eq_and (field_eq_and rfl) rfl) rfl) (by decide)
  obtain htm | htm := BitVec.eq_zero_or_eq_one (field w 47 1)
  · rw [htm, place_zero, BitVec.or_zero] at hbits
    exact ⟨_, if_pos htm, .of_ne_append rfl (by decide) hbits⟩
  · have htag : field w 40 3 = 0#3 := not_not.mp fun htag => hc (.inl ⟨rfl, htm, htag⟩)
    rw [htm, htag, place_zero, BitVec.or_zero] at hbits
    exact ⟨_, (if_neg (by simp [htm])).trans (if_pos htag), .of_ne_append rfl (by decide) hbits⟩

/-- CTXFLUSH takes SRC and TAG with ALL = 0 and neither with ALL = 1 (30_encoding.md R101). -/
theorem decodeFields_ctxflush (hc : ¬conditionalReserved w .ctxflush) :
    ∃ i, decodeFields w beats .ctxflush = .ok i ∧ i.ReadFrom w beats .ctxflush := by
  have hbits : place (field w 48 8) 48 ||| place (field w 47 1) 47 ||| place (field w 40 3) 40 =
      w &&& Opcode.ctxflush.operandMask :=
    or_field_eq_and (or_field_eq_and (field_eq_and rfl) rfl) (by decide)
  obtain hall | hall := BitVec.eq_zero_or_eq_one (field w 47 1)
  · rw [hall, place_zero, BitVec.or_zero] at hbits
    exact ⟨_, if_pos hall, .of_ne_append rfl (by decide) hbits⟩
  · have hsrc : field w 48 8 = 0#8 := not_not.mp fun hsrc => hc (.inr ⟨rfl, hall, .inl hsrc⟩)
    have htag : field w 40 3 = 0#3 := not_not.mp fun htag => hc (.inr ⟨rfl, hall, .inr htag⟩)
    rw [hall, hsrc, htag, place_zero, place_zero, BitVec.or_zero, BitVec.zero_or] at hbits
    exact ⟨_, (if_neg (by simp [hall])).trans (if_pos ⟨hsrc, htag⟩), .of_ne_append rfl (by decide) hbits⟩

/-- Clear of the conditional reserved bits too, the fields of a word are a command (30_encoding.md R92 to R102). -/
theorem decodeFields_reads (hc : ¬conditionalReserved w o) :
    ∃ i, decodeFields w beats o = .ok i ∧ i.ReadFrom w beats o := by
  cases o with
  | nop => exact ⟨_, rfl, .of_ne_append rfl (by decide) (BitVec.and_zero (x := w)).symm⟩
  | alloc | hdec | txack | free | hdrv | payv | size | winv | rxpkt | csrr =>
    exact ⟨_, rfl, .of_ne_append rfl (by decide) (field_eq_and (by decide))⟩
  | growf | growb | txwr | tagfree | csrw =>
    exact ⟨_, rfl, .of_ne_append rfl (by decide) (or_field_eq_and (field_eq_and rfl) (by decide))⟩
  | append => exact ⟨_, rfl, .append⟩
  | rd8 =>
    refine ⟨_, rfl, .of_ne_append rfl (by decide) ?_⟩
    rw [Instr.operandBits, bits_regionOf]
    exact or_field_eq_and (or_field_eq_and (field_eq_and rfl) rfl) (by decide)
  | wr8 =>
    refine ⟨_, rfl, .of_ne_append rfl (by decide) ?_⟩
    rw [Instr.operandBits, bits_regionOf]
    exact or_field_eq_and (or_field_eq_and (or_field_eq_and (field_eq_and rfl) rfl) rfl) (by decide)
  | henc =>
    refine ⟨_, rfl, .of_ne_append rfl (by decide) ?_⟩
    rw [Instr.operandBits, ctlEncode_ctlDecode]
    exact or_field_eq_and (or_field_eq_and (field_eq_and rfl) rfl) (by decide)
  | txmsg => exact decodeFields_txmsg hc
  | ctxflush => exact decodeFields_ctxflush hc

theorem decodeFields_of_conditional (hc : conditionalReserved w o) : decodeFields w beats o = .error .reservedField := by
  obtain ⟨rfl, htm, htag⟩ | ⟨rfl, hall, hkey⟩ := hc
  · rw [decodeFields, if_neg (by simp [htm]), if_neg htag]
  · rw [decodeFields, if_neg (by simp [hall]), if_neg (not_and_or.mpr hkey)]

theorem decodeFields_ok (h : decodeFields w beats o = .ok i) : i.ReadFrom w beats o := by
  by_cases hc : conditionalReserved w o
  · rw [decodeFields_of_conditional hc] at h
    cases h
  · obtain ⟨i', hi', hread⟩ := decodeFields_reads (beats := beats) hc
    cases h.symm.trans hi'
    exact hread

end Read

/-! ### The words of a command -/

/-- The family of Laws/PerInstr.lean as one statement (30_encoding.md R90, R91). -/
theorem Instr.wordInFormat (i : Instr) : Laws.WordInFormat.Statement i :=
  match i with
  | .nop => Laws.WordInFormat.nop
  | .alloc len => Laws.WordInFormat.alloc len
  | .free h => Laws.WordInFormat.free h
  | .hdrv h => Laws.WordInFormat.hdrv h
  | .payv h => Laws.WordInFormat.payv h
  | .size h => Laws.WordInFormat.size h
  | .winv h => Laws.WordInFormat.winv h
  | .growf h n => Laws.WordInFormat.growf h n
  | .growb h n => Laws.WordInFormat.growb h n
  | .append h data => Laws.WordInFormat.append h data
  | .rd8 h rg idx => Laws.WordInFormat.rd8 h rg idx
  | .wr8 h rg idx d => Laws.WordInFormat.wr8 h rg idx d
  | .henc dest src ctl => Laws.WordInFormat.henc dest src ctl
  | .hdec hdr32 => Laws.WordInFormat.hdec hdr32
  | .txwr addr d => Laws.WordInFormat.txwr addr d
  | .txmsg dest mode len => Laws.WordInFormat.txmsg dest mode len
  | .tagfree dest tag => Laws.WordInFormat.tagfree dest tag
  | .txack st => Laws.WordInFormat.txack st
  | .rxpkt h => Laws.WordInFormat.rxpkt h
  | .ctxflush sel => Laws.WordInFormat.ctxflush sel
  | .csrr csr => Laws.WordInFormat.csrr csr
  | .csrw csr val => Laws.WordInFormat.csrw csr val

/-- Below OP a command word is its operand fields. -/
theorem Instr.field_word (i : Instr) {lo n : Nat} (h : lo + n ≤ 56) : field i.word lo n = field i.operandBits lo n := by
  rw [Instr.word, field_or, field_place_disjoint _ 56 lo n (.inl h), BitVec.zero_or]

/-- The fields of a command's word give the command back. -/
theorem decodeFields_word (i : Instr) (hi : i.wf) : decodeFields i.word i.beats i.opcode = .ok i := by
  cases i with
  | append h data =>
    have hlen : (BitVec.ofNat 16 data.length).toNat = data.length := Nat.mod_eq_of_lt hi
    simp [decodeFields, Instr.opcode, Instr.field_word, Instr.operandBits, field_place_same, field_place_disjoint, hlen,
      map_beatByte_append]
  | txmsg dest mode len =>
    cases mode <;>
      simp [decodeFields, Instr.opcode, Instr.field_word, Instr.operandBits, field_place_same, field_place_disjoint]
  | ctxflush sel =>
    cases sel <;>
      simp [decodeFields, Instr.opcode, Instr.field_word, Instr.operandBits, field_place_same, field_place_disjoint]
  | _ =>
    simp [decodeFields, Instr.opcode, Instr.field_word, Instr.operandBits, field_place_same, field_place_disjoint]

/-! ### The formats, each bit listed (30_encoding.md R92 to R101) -/

section Formats

/- `op` stands in OP, and `h` in the byte below it: H, DEST, SRC or CSR. -/
variable (op h : Byte)

theorem format_N : place op 56 ||| 0#64 = op ++ 0#56 :=
  eq_of_eq_place (by simp [place_append])

theorem format_L (len : BitVec 16) : place op 56 ||| place len 0 = op ++ 0#40 ++ len :=
  eq_of_eq_place (by simp [place_append])

theorem format_H : place op 56 ||| place h 48 = op ++ h ++ 0#48 :=
  eq_of_eq_place (by simp [place_append])

theorem format_HN (n : BitVec 16) : place op 56 ||| (place h 48 ||| place n 0) = op ++ h ++ 0#32 ++ n :=
  eq_of_eq_place (by simp [place_append, BitVec.or_assoc])

theorem format_HA_read (rg : BitVec 2) (idx : BitVec 16) :
    place op 56 ||| (place h 48 ||| place rg 46 ||| place idx 0) = op ++ h ++ rg ++ 0#30 ++ idx :=
  eq_of_eq_place (by simp [place_append, BitVec.or_assoc])

theorem format_HA_write (rg : BitVec 2) (d : Byte) (idx : BitVec 16) :
    place op 56 ||| (place h 48 ||| place rg 46 ||| place d 32 ||| place idx 0) =
      op ++ h ++ rg ++ 0#6 ++ d ++ 0#16 ++ idx :=
  eq_of_eq_place (by simp [place_append, BitVec.or_assoc])

theorem format_E (src : Byte) (c : Control) :
    place op 56 ||| (place h 48 ||| place src 40 ||| place (ctlEncode c) 32) =
      op ++ h ++ src ++ BitVec.ofBool c.som ++ BitVec.ofBool c.eom ++ c.seq ++ BitVec.ofBool c.tagOwner ++ c.tag ++
        0#32 :=
  eq_of_eq_place (by simp [ctlEncode, place_append, BitVec.or_assoc])

theorem format_D (hdr32 : Word32) : place op 56 ||| place hdr32 0 = op ++ 0#24 ++ hdr32 :=
  eq_of_eq_place (by simp [place_append])

theorem format_M (d : Byte) (addr : BitVec 16) :
    place op 56 ||| (place d 32 ||| place addr 0) = op ++ 0#16 ++ d ++ 0#16 ++ addr :=
  eq_of_eq_place (by simp [place_append, BitVec.or_assoc])

theorem format_T (tm : BitVec 1) (tag : BitVec 3) (len : BitVec 16) :
    place op 56 ||| (place h 48 ||| place tm 47 ||| place tag 40 ||| place len 0) =
      op ++ h ++ tm ++ 0#4 ++ tag ++ 0#24 ++ len :=
  eq_of_eq_place (by simp [place_append, BitVec.or_assoc])

theorem format_T_tagfree (tag : BitVec 3) :
    place op 56 ||| (place h 48 ||| place tag 40) = op ++ h ++ 0#5 ++ tag ++ 0#40 :=
  eq_of_eq_place (by simp [place_append, BitVec.or_assoc])

theorem format_K (st : Byte) : place op 56 ||| place st 0 = op ++ 0#48 ++ st :=
  eq_of_eq_place (by simp [place_append])

theorem format_X_key (tag : BitVec 3) :
    place op 56 ||| (place h 48 ||| place tag 40) = op ++ h ++ 0#1 ++ 0#4 ++ tag ++ 0#40 :=
  eq_of_eq_place (by simp [place_append, BitVec.or_assoc])

theorem format_X_all (all : BitVec 1) : place op 56 ||| place all 47 = op ++ 0#8 ++ all ++ 0#47 :=
  eq_of_eq_place (by simp [place_append])

theorem format_C (val : Word32) : place op 56 ||| (place h 48 ||| place val 0) = op ++ h ++ 0#16 ++ val :=
  eq_of_eq_place (by simp [place_append, BitVec.or_assoc])

end Formats

/-- The RG field's codes, as the table of R96 lists them. -/
theorem Region.eq_bits_of_table {rg : Region} {code : BitVec 2}
    (h : (rg = .hdr ∧ code = 0#2) ∨ (rg = .payload ∧ code = 1#2) ∨ (rg = .window ∧ code = 2#2) ∨
      (rg = .reserved ∧ code = 3#2)) : code = rg.bits := by
  obtain ⟨rfl, rfl⟩ | ⟨rfl, rfl⟩ | ⟨rfl, rfl⟩ | ⟨rfl, rfl⟩ := h <;> rfl

/-- TXMSG with TM = 1 holds 0 for TAG. -/
theorem word_txmsg_auto (dest : Byte) (len : BitVec 16) :
    (Instr.txmsg dest .auto len).word = 0x21#8 ++ dest ++ 1#1 ++ 0#4 ++ 0#3 ++ 0#24 ++ len := by
  rw [← format_T, place_zero, BitVec.or_zero]
  rfl

/-- TXMSG with TM = 0. -/
theorem word_txmsg_explicit (dest : Byte) (tag : BitVec 3) (len : BitVec 16) :
    (Instr.txmsg dest (.explicit tag) len).word = 0x21#8 ++ dest ++ 0#1 ++ 0#4 ++ tag ++ 0#24 ++ len := by
  rw [← format_T, place_zero, BitVec.or_zero]
  rfl

theorem beats_append_length (h : Byte) (data : List Byte) :
    (Instr.append h data).beats.length = (data.length + 7) / 8 := by
  simp [Instr.beats, ceilDiv]

end Sys2Proof
end

section
/-! PROOF. The statements of the encoding and of the command port: each is put together from the laws of the formats and of
the decoder. -/

namespace Sys2Proof

/-- Settles O1: OP leads the decoder to the command's own format, whose fields read back. -/
theorem decodeOfEncodeIsTheCommand : Obligations.DecodeOfEncodeIsTheCommand := by
  intro i hi
  obtain ⟨hop, hres, hlen⟩ := i.wordInFormat hi
  exact (decode_of_clear hlen hop.symm hres).trans (decodeFields_word i hi)

/-- Settles O2: the fields read from a word, put back at their places, are the word. -/
theorem decodedWordIsTheEncodedWord : Obligations.DecodedWordIsTheEncodedWord := by
  intro w beats i hdec
  obtain ⟨o, hlen, hop, hres, hfields⟩ := decode_ok hdec
  have hread := decodeFields_ok hfields
  have hword : i.word = w := hread.word_eq hop hres
  obtain ⟨-, -, hbeats⟩ := i.wordInFormat hread.wf
  exact ⟨hword, hread.wf, by rw [hlen, hbeats, hword], hread.data⟩

/-- Settles O3: OP, then the reserved bits, then the conditional ones decide the decoder's answer. -/
theorem everyWordDecodesOrIsNamed : Obligations.EveryWordDecodesOrIsNamed := by
  intro w beats hlen
  refine ⟨decode_of_illegal hlen, fun o hop => ⟨?_, ?_⟩⟩
  · intro hbad
    by_cases hres : w &&& o.reservedMask = 0#64
    · have hc : conditionalReserved w o := hbad.resolve_left (not_not.mpr hres)
      exact (decode_of_clear hlen hop hres).trans (decodeFields_of_conditional hc)
    · exact decode_of_reserved hlen hop hres
  · rintro ⟨hres, htxmsg, hflush⟩
    obtain ⟨i, hi, hread⟩ := decodeFields_reads (beats := beats) (not_or.mpr ⟨htxmsg, hflush⟩)
    exact ⟨i, (decode_of_clear hlen hop hres).trans hi, hread.opcode⟩

/-- Settles O4: each command's word is laid out in its format. -/
theorem encodedWordsHaveTheirFormats : Obligations.EncodedWordsHaveTheirFormats := by
  refine ⟨format_N _, format_L _, ?handle, ?count, ?append, ?access, format_E _, format_D _,
    fun addr d => format_M _ d addr, ?tag, format_K _, format_X_key _, format_X_all _ _, ?csr⟩
  case handle =>
    exact fun h => ⟨format_H _ h, format_H _ h, format_H _ h, format_H _ h, format_H _ h, format_H _ h⟩
  case count => exact fun h n => ⟨format_HN _ h n, format_HN _ h n⟩
  case append =>
    exact fun h data _ => ⟨format_HN _ h _, beats_append_length h data, fun j hj => beatByte_append h data hj⟩
  case access =>
    intro h idx d rg code htable
    rw [Region.eq_bits_of_table htable]
    exact ⟨format_HA_read _ h _ idx, format_HA_write _ h _ d idx⟩
  case tag =>
    exact fun dest tag len =>
      ⟨word_txmsg_explicit dest tag len, word_txmsg_auto dest len, format_T_tagfree _ dest tag⟩
  case csr => exact fun csr val => ⟨format_H _ csr, format_C _ csr val⟩

/-- Settles O5, by running the decoder on each word. -/
theorem sampleWordsDecode : Obligations.SampleWordsDecode := ⟨rfl, rfl, rfl, rfl, rfl, rfl⟩

end Sys2Proof

namespace Sys2Proof.Machine

/-! ### The command port (30_encoding.md R90, R105) -/

section Port

variable {s : State} {words : List Word64} {rest : List Input}

theorem step_of_command (hin : s.inputs = .command words :: rest) : step s = runTransaction words (s.begin rest) := by
  simp [step, hin]

theorem runTransaction_of_ok {i : Instr} (h : decode words = .ok i) (s : State) : runTransaction words s = exec i s := by
  simp [runTransaction, h]

/-- A word that is no command takes the fault of its error (60_exceptions.md R290). -/
theorem runTransaction_of_error {w : Word64} {beats : List Word64} {e : DecodeError} {c : Cause}
    (h : decode (w :: beats) = .error e)
    (hc : (e = .illegalOpcode ∧ c = .illegalOpcode) ∨ (e = .reservedField ∧ c = .reservedField)) (s : State) :
    runTransaction (w :: beats) s = decodeFault c w s := by
  obtain ⟨rfl, rfl⟩ | ⟨rfl, rfl⟩ := hc <;> simp [runTransaction, h]

end Port

/-- Settles O8: the command port hands the decoded command the state with its transaction taken. -/
theorem stepRunsTheDecodedCommand : Obligations.StepRunsTheDecodedCommand := fun s _ rest _ hin hdec =>
  (step_of_command hin).trans (runTransaction_of_ok hdec (s.begin rest))

/-- Settles O9: the decode fault of the word's error, under the guard of the halted engine. -/
theorem undecodableWordsFault : Obligations.UndecodableWordsFault := by
  intro s w beats rest e c hin herr hc
  have hstep : step s = decodeFault c w (s.begin rest) :=
    (step_of_command hin).trans (runTransaction_of_error herr hc _)
  exact ⟨fun hrun => hstep.trans (whenRunning_of_running hrun), fun hhalt => hstep.trans (whenRunning_of_halted hhalt)⟩

/-! ### The numbers of the tables -/

/-- Settles O53: each name against its row of R104 or R290. -/
theorem codesAreTheTablesNumbers : Obligations.CodesAreTheTablesNumbers := by
  unfold Obligations.CodesAreTheTablesNumbers
  decide

end Sys2Proof.Machine
end

section
/-! PROOF. The arena commands (41_arena.md R130 to R141): CheckHandle comes first for every command that names a handle,
and each outcome of a command on a running engine is an equation. -/

namespace Sys2Proof.Machine

/-! ### CheckHandle (41_arena.md R130) -/

/-- Every command that names a handle runs under the check of that handle, whatever it does after it. -/
theorem exec_eq_withHandle {i : Instr} {h : Byte} (hi : commandHandle i = some h) (s : State) :
    ∃ k : Buffer → Result, exec i s = withHandle s i.opcode h k := by
  cases i with
  | free _ | hdrv _ | payv _ | size _ | winv _ | growf _ _ | growb _ _ | append _ _ | rd8 _ _ _ | wr8 _ _ _ _
  | rxpkt _ =>
    cases hi
    dsimp only [exec, execFree, execHdrv, execPayv, execSize, execWinv, execGrowf, execGrowb, execAppend, execRd8,
      execWr8, execRxpkt, withOwnHandle, withByte]
    exact ⟨_, rfl⟩
  | _ => contradiction

/-- Settles O15: a command that names a handle runs under `withHandle`, whose two faults are said once for all. -/
theorem handleCommandsCheckTheHandle : Obligations.HandleCommandsCheckTheHandle := by
  intro i h s hi hr
  obtain ⟨k, e⟩ := exec_eq_withHandle hi s
  exact ⟨fun hb => e.trans (withHandle_badHandle hr hb), fun hb ha => e.trans (withHandle_notAllocated hr hb ha)⟩

/-! ### ALLOC (41_arena.md R131) -/

section Alloc

variable {s : State} {len : BitVec 16} (hr : s.halted = false)
include hr

theorem execAlloc_of_long (hlen : Config.mtu < len.toNat) : execAlloc len s = .next (s.respond .errLen 0#32) := by
  rw [execAlloc, whenRunning_of_running hr, if_pos hlen]

theorem execAlloc_of_full (hlen : len.toNat ≤ Config.mtu) (hfull : s.freeHandle = none) :
    execAlloc len s = .next (s.respond .errNoBuf 0#32) := by
  rw [execAlloc, whenRunning_of_running hr, if_neg (Nat.not_lt.mpr hlen), hfull]

theorem execAlloc_of_free {h : Nat} (hlen : len.toNat ≤ Config.mtu) (hfree : s.freeHandle = some h) :
    execAlloc len s = .next ((s.allocBuffer h .cmd len.toNat).respond .ok (BitVec.ofNat 32 h)) := by
  rw [execAlloc, whenRunning_of_running hr, if_neg (Nat.not_lt.mpr hlen), hfree]

end Alloc

/-- Settles O25, by the length and then by what `State.freeHandle` finds. -/
theorem allocTakesTheLowestFreeBuffer : Obligations.AllocTakesTheLowestFreeBuffer := by
  intro s len hr
  refine ⟨execAlloc_of_long hr, fun hlen hfull => ?_, fun h hh hlen hfree hlowest => ?_⟩
  · exact execAlloc_of_full hr hlen (State.freeHandle_eq_none.mpr hfull)
  · exact execAlloc_of_free hr hlen (State.freeHandle_eq_some.mpr ⟨hh, hfree, hlowest⟩)

/-! ### The commands on a live buffer (41_arena.md R132 to R139) -/

section Live

variable {s : State} {h : Byte} (hr : s.halted = false) (hl : s.live h)
include hr hl

theorem execFree_of_cmd (ho : (s.buf h.toNat).owner = .cmd) :
    execFree h s = .next ((s.setBuf h.toNat { s.buf h.toNat with alloc := false }).respond .ok 0#32) := by
  rw [execFree, withOwnHandle_live hr hl, if_neg (by rw [ho]; decide)]

theorem execFree_of_txeng (ho : (s.buf h.toNat).owner = .txeng) :
    execFree h s = .next (s.raise Opcode.free.code .owned h) := by
  rw [execFree, withOwnHandle_live hr hl, if_pos ho]

theorem execHdrv_of_live :
    execHdrv h s = .next (s.respond .ok (viewData (s.buf h.toNat).hdr Config.hdrLen)) :=
  withHandle_live hr hl

theorem execPayv_of_live :
    execPayv h s =
      .next (s.respond .ok (viewData ((s.buf h.toNat).hdr + Config.hdrLen) (s.buf h.toNat).payloadLen)) :=
  withHandle_live hr hl

theorem execSize_of_live : execSize h s = .next (s.respond .ok (BitVec.ofNat 32 (s.buf h.toNat).payloadLen)) :=
  withHandle_live hr hl

theorem execWinv_of_live :
    execWinv h s =
      .next (s.respond .ok (viewData (s.buf h.toNat).start ((s.buf h.toNat).endOff - (s.buf h.toNat).start))) :=
  withHandle_live hr hl

theorem execGrowf_of_underflow {n : BitVec 16} (hn : (s.buf h.toNat).start < n.toNat) :
    execGrowf h n s = .next (s.respond .errUnderflow 0#32) := by
  rw [execGrowf, withHandle_live hr hl, if_pos hn]

theorem execGrowf_of_fits {n : BitVec 16} (hn : n.toNat ≤ (s.buf h.toNat).start) :
    execGrowf h n s =
      .next ((s.setBuf h.toNat { s.buf h.toNat with start := (s.buf h.toNat).start - n.toNat }).respond .ok 0#32) := by
  rw [execGrowf, withHandle_live hr hl, if_neg (Nat.not_lt.mpr hn)]

theorem execGrowb_of_full {n : BitVec 16} (hn : s.cap < (s.buf h.toNat).endOff + n.toNat) :
    execGrowb h n s = .next (s.respond .errFull 0#32) := by
  rw [execGrowb, withHandle_live hr hl, if_pos hn]

theorem execGrowb_of_fits {n : BitVec 16} (hn : (s.buf h.toNat).endOff + n.toNat ≤ s.cap) :
    execGrowb h n s =
      .next ((s.setBuf h.toNat { s.buf h.toNat with endOff := (s.buf h.toNat).endOff + n.toNat }).respond .ok 0#32) := by
  rw [execGrowb, withHandle_live hr hl, if_neg (Nat.not_lt.mpr hn)]

theorem execAppend_of_full {data : List Byte} (hn : s.cap < (s.buf h.toNat).endOff + data.length) :
    execAppend h data s = .next (s.respond .errFull 0#32) := by
  rw [execAppend, withHandle_live hr hl, if_pos hn]

/-- The bytes are written and then the end is raised: together, one write of the buffer. -/
theorem execAppend_of_fits {data : List Byte} (hn : (s.buf h.toNat).endOff + data.length ≤ s.cap) :
    execAppend h data s =
      .next ((s.setBuf h.toNat { s.buf h.toNat with
        data := (s.buf h.toNat).data.writeN (s.buf h.toNat).endOff data
        endOff := (s.buf h.toNat).endOff + data.length }).respond .ok 0#32) := by
  rw [execAppend, withHandle_live hr hl, if_neg (Nat.not_lt.mpr hn), State.arenaWriteN_eq hl.1 hl.2 hn]
  simp only [State.setBuf_buf_same _ hl.1, State.setBuf_setBuf]

end Live

/-- Settles O26, by who holds the buffer. -/
theorem freeReleasesTheBuffer : Obligations.FreeReleasesTheBuffer := fun s h hr =>
  ⟨handleCommandsCheckTheHandle (.free h) h s rfl hr, fun hl ho => execFree_of_cmd hr hl ho,
    fun hl ho => execFree_of_txeng hr hl ho⟩

/-- Settles O27: past CheckHandle each of the four commands only answers what it reads of the buffer. -/
theorem viewsReportTheCurrentBounds : Obligations.ViewsReportTheCurrentBounds := by
  intro s h hr
  have hcheck : ∀ i, commandHandle i = some h → checksHandle i h s := fun i hi =>
    handleCommandsCheckTheHandle i h s hi hr
  exact ⟨⟨hcheck _ rfl, hcheck _ rfl, hcheck _ rfl, hcheck _ rfl⟩, fun hl =>
    ⟨execHdrv_of_live hr hl, execPayv_of_live hr hl, execSize_of_live hr hl, execWinv_of_live hr hl⟩⟩

/-- Settles O28, by whether n bytes lie before the start. -/
theorem growFrontMovesTheStart : Obligations.GrowFrontMovesTheStart := fun s h n hr =>
  ⟨handleCommandsCheckTheHandle (.growf h n) h s rfl hr, fun hl hn => execGrowf_of_underflow hr hl hn,
    fun hl hn => execGrowf_of_fits hr hl hn⟩

/-- Settles O29, by whether n bytes lie past the end. -/
theorem growBackMovesTheEnd : Obligations.GrowBackMovesTheEnd := fun s h n hr =>
  ⟨handleCommandsCheckTheHandle (.growb h n) h s rfl hr, fun hl hn => execGrowb_of_full hr hl hn,
    fun hl hn => execGrowb_of_fits hr hl hn⟩

/-- Settles O30: APPEND is one write of one buffer, and the laws of the store say which bytes it changes. -/
theorem appendCopiesAllOrNothing : Obligations.AppendCopiesAllOrNothing := by
  intro s h data hr
  refine ⟨handleCommandsCheckTheHandle (.append h data) h s rfl hr, fun hl hn => execAppend_of_full hr hl hn,
    fun hl hfit => ?_⟩
  refine ⟨_, execAppend_of_fits hr hl hfit, rfl, State.setBuf_nbuf s _ _,
    fun _ hne => State.setBuf_buf_other s _ hne, ?_⟩
  rw [State.respond_buf, State.setBuf_buf_same _ hl.1]
  exact ⟨rfl, fun j hj => Memory.read_writeN _ _ j data hj, fun a ha => Memory.read_writeN_other _ _ a data ha⟩

/-! ### One byte through a region (10_state.md R32; 41_arena.md R140, R141) -/

theorem Buffer.regionIs.region_eq {b : Buffer} {rg : Region} {base len : Nat} (h : b.regionIs rg base len) :
    b.region rg = some (base, len) := by
  obtain ⟨rfl, rfl, rfl⟩ | ⟨rfl, rfl, rfl⟩ | ⟨rfl, rfl, rfl⟩ := h <;> rfl

section Bytes

variable {s : State} {h : Byte} {rg : Region} {idx : BitVec 16} (hr : s.halted = false) (hl : s.live h)
include hr hl

theorem withByte_reserved {op : Opcode} {k : Nat → Result} (hrg : rg = .reserved) :
    withByte s op h rg idx k = .next (s.raise op.code .badRegion h) := by
  rw [withByte_live hr hl, hrg, Buffer.region]

variable {base len : Nat} (hreg : (s.buf h.toNat).regionIs rg base len)
include hreg

theorem withByte_outside {op : Opcode} {k : Nat → Result} (hidx : len ≤ idx.toNat) :
    withByte s op h rg idx k = .next (s.raise op.code .outOfBounds h) := by
  simp only [withByte_live hr hl, hreg.region_eq, if_pos hidx]

theorem withByte_inside {op : Opcode} {k : Nat → Result} (hidx : idx.toNat < len) :
    withByte s op h rg idx k = k (base + idx.toNat) := by
  simp only [withByte_live hr hl, hreg.region_eq, if_neg (Nat.not_le.mpr hidx)]

variable (hidx : idx.toNat < len) (hw : (s.buf h.toNat).windowOk s.params)
include hidx hw

theorem execRd8_of_inside :
    execRd8 h rg idx s = .next (s.respond .ok (((s.buf h.toNat).data.read (base + idx.toNat)).setWidth 32)) := by
  have hcap : base + idx.toNat < s.cap := Buffer.region_lt_cap hl.2 hw hreg.region_eq hidx
  rw [execRd8, withByte_inside hr hl hreg hidx, State.arenaRead_eq hl.1 hl.2 hcap]

theorem execWr8_of_inside (d : Byte) :
    execWr8 h rg idx d s =
      .next ((s.setBuf h.toNat { s.buf h.toNat with
        data := (s.buf h.toNat).data.write (base + idx.toNat) d }).respond .ok 0#32) := by
  have hcap : base + idx.toNat < s.cap := Buffer.region_lt_cap hl.2 hw hreg.region_eq hidx
  rw [execWr8, withByte_inside hr hl hreg hidx, State.arenaWrite_eq hl.1 hl.2 hcap]

end Bytes

/-- Settles O31, in the order of the checks: the handle, the region, the index; the window in order keeps the byte inside
the backing array. -/
theorem readByteThroughARegion : Obligations.ReadByteThroughARegion := by
  intro s h rg idx hr
  obtain ⟨k, e⟩ : ∃ k, execRd8 h rg idx s = withByte s .rd8 h rg idx k := ⟨_, rfl⟩
  exact ⟨handleCommandsCheckTheHandle (.rd8 h rg idx) h s rfl hr,
    fun hl hrg => e.trans (withByte_reserved hr hl hrg), fun base len hl hreg =>
    ⟨fun hidx => e.trans (withByte_outside hr hl hreg hidx),
      fun hidx hw => execRd8_of_inside hr hl hreg hidx hw⟩⟩

/-- Settles O32, in the order of the checks; the write is one byte of one buffer's store. -/
theorem writeByteThroughARegion : Obligations.WriteByteThroughARegion := by
  intro s h rg idx d hr
  obtain ⟨k, e⟩ : ∃ k, execWr8 h rg idx d s = withByte s .wr8 h rg idx k := ⟨_, rfl⟩
  refine ⟨handleCommandsCheckTheHandle (.wr8 h rg idx d) h s rfl hr,
    fun hl hrg => e.trans (withByte_reserved hr hl hrg), fun base len hl hreg =>
    ⟨fun hidx => e.trans (withByte_outside hr hl hreg hidx), fun hidx hw => ?_⟩⟩
  refine ⟨_, execWr8_of_inside hr hl hreg hidx hw d, rfl, State.setBuf_nbuf s _ _,
    fun _ hne => State.setBuf_buf_other s _ hne, ?_⟩
  rw [State.respond_buf, State.setBuf_buf_same _ hl.1]
  exact ⟨rfl, Memory.read_write_same _ _ d, fun a ha => Memory.read_write_other _ _ a d ha⟩

end Sys2Proof.Machine
end

section
/-! PROOF. The header codec (42_codec.md R170 to R174): the control byte's fields, the header's four bytes in a word, and
the two commands that answer them. -/

namespace Sys2Proof

/-! ### The control byte's fields (42_codec.md R170) -/

section ControlByte

variable (c : Control)

/- Each field is the decoder's, so the round trip says what it is. -/
theorem ctlEncode_som : (ctlEncode c).getLsbD 7 = c.som := congrArg Control.som (ctlDecode_ctlEncode c)

theorem ctlEncode_eom : (ctlEncode c).getLsbD 6 = c.eom := congrArg Control.eom (ctlDecode_ctlEncode c)

theorem ctlEncode_seq : (ctlEncode c).extractLsb' 4 2 = c.seq := congrArg Control.seq (ctlDecode_ctlEncode c)

theorem ctlEncode_tagOwner : (ctlEncode c).getLsbD 3 = c.tagOwner :=
  congrArg Control.tagOwner (ctlDecode_ctlEncode c)

theorem ctlEncode_tag : (ctlEncode c).extractLsb' 0 3 = c.tag := congrArg Control.tag (ctlDecode_ctlEncode c)

end ControlByte

/-- Settles O6: the decoder reads each field at its place, and the encoder puts it where the decoder reads it. -/
theorem controlByteHasItsLayout : Obligations.ControlByteHasItsLayout :=
  ⟨fun c => ⟨ctlEncode_som c, ctlEncode_eom c, ctlEncode_seq c, ctlEncode_tagOwner c, ctlEncode_tag c⟩,
    fun _ => ⟨rfl, rfl, rfl, rfl, rfl⟩⟩

end Sys2Proof

namespace Sys2Proof.Machine

/-! ### The header (42_codec.md R171) -/

theorem hdrDecodeBytes_hdrEncode (dest src : Byte) (c : Control) :
    hdrDecodeBytes (hdrEncode dest src c) =
      { ok := true, ver := Config.mctpVersion, dest := dest, src := src, ctl := c } := by
  simp [hdrDecodeBytes, hdrEncode, hdrDecode]

/-- Settles O7: the two laws of the control byte, and the header's four bytes read back in their order. -/
theorem headerRoundTrips : Obligations.HeaderRoundTrips :=
  ⟨ctlDecode_ctlEncode, ctlEncode_ctlDecode, hdrDecodeBytes_hdrEncode⟩

/-! ### Four bytes in a word (20_memory.md R66) -/

section Pack

variable (b0 b1 b2 b3 : Byte)

theorem pack32_byte3 : (pack32 b0 b1 b2 b3).extractLsb' 0 8 = b3 := BitVec.extractLsb'_append_eq_right

theorem pack32_byte2 : (pack32 b0 b1 b2 b3).extractLsb' 8 8 = b2 :=
  (BitVec.extractLsb'_append_eq_of_le (by decide)).trans BitVec.extractLsb'_append_eq_right

theorem pack32_byte1 : (pack32 b0 b1 b2 b3).extractLsb' 16 8 = b1 :=
  calc (pack32 b0 b1 b2 b3).extractLsb' 16 8
    _ = (b0 ++ b1 ++ b2).extractLsb' 8 8 := BitVec.extractLsb'_append_eq_of_le (by decide)
    _ = (b0 ++ b1).extractLsb' 0 8 := BitVec.extractLsb'_append_eq_of_le (by decide)
    _ = b1 := BitVec.extractLsb'_append_eq_right

theorem pack32_byte0 : (pack32 b0 b1 b2 b3).extractLsb' 24 8 = b0 :=
  calc (pack32 b0 b1 b2 b3).extractLsb' 24 8
    _ = (b0 ++ b1 ++ b2).extractLsb' 16 8 := BitVec.extractLsb'_append_eq_of_le (by decide)
    _ = (b0 ++ b1).extractLsb' 8 8 := BitVec.extractLsb'_append_eq_of_le (by decide)
    _ = b0 := BitVec.extractLsb'_append_eq_left

end Pack

/-- A control byte in the low byte of a word has its fields at the same places of the word. -/
theorem ctl_fields_of_low_byte {data : Word32} {c : Control} (h : data.extractLsb' 0 8 = ctlEncode c) :
    data.getLsbD 7 = c.som ∧ data.getLsbD 6 = c.eom ∧ data.extractLsb' 4 2 = c.seq ∧ data.getLsbD 3 = c.tagOwner ∧
      data.extractLsb' 0 3 = c.tag := by
  have hbit : ∀ i < 8, data.getLsbD i = (ctlEncode c).getLsbD i := fun i hi => by
    simp [← h, hi]
  have hfield : ∀ lo n, lo + n ≤ 8 → data.extractLsb' lo n = (ctlEncode c).extractLsb' lo n := fun lo n hn => by
    rw [← h, BitVec.extractLsb'_extractLsb'_of_le hn]
  exact ⟨(hbit 7 (by decide)).trans (ctlEncode_som c), (hbit 6 (by decide)).trans (ctlEncode_eom c),
    (hfield 4 2 (by decide)).trans (ctlEncode_seq c), (hbit 3 (by decide)).trans (ctlEncode_tagOwner c),
    (hfield 0 3 (by decide)).trans (ctlEncode_tag c)⟩

/-! ### HENC and HDEC (42_codec.md R172, R173) -/

section Codec

variable {s : State} (hr : s.halted = false)
include hr

theorem execHenc_of_running (dest src : Byte) (c : Control) :
    execHenc dest src c s = .next (s.respond .ok (pack32 Config.mctpVersion dest src (ctlEncode c))) :=
  whenRunning_of_running hr

/-- Decoding the control byte and encoding it again answers the byte itself. -/
theorem execHdec_of_running (w : Word32) :
    execHdec w s =
      .next (s.respond (if w.extractLsb' 24 8 = 0x01#8 then .ok else .errBadVersion)
        (pack32 (w.extractLsb' 16 8) (w.extractLsb' 8 8) (w.extractLsb' 24 8) (w.extractLsb' 0 8))) := by
  rw [execHdec, whenRunning_of_running hr]
  simp only [hdrDecode, ctlEncode_ctlDecode, Config.mctpVersion, beq_iff_eq]

end Codec

/-- Settles O33: the answer's bytes are the header's, and the last of them holds the control fields. -/
theorem hencAnswersTheHeader : Obligations.HencAnswersTheHeader := fun _ dest src c hr =>
  ⟨_, execHenc_of_running hr dest src c, pack32_byte0 _ _ _ _, pack32_byte1 _ _ _ _, pack32_byte2 _ _ _ _,
    ctl_fields_of_low_byte (pack32_byte3 _ _ _ _)⟩

/-- Settles O34: the word's bytes are answered in the order destination, source, version, control byte. -/
theorem hdecAnswersTheFields : Obligations.HdecAnswersTheFields := fun _ w hr =>
  ⟨_, execHdec_of_running hr w, pack32_byte0 _ _ _ _, pack32_byte1 _ _ _ _, pack32_byte2 _ _ _ _,
    pack32_byte3 _ _ _ _⟩

end Sys2Proof.Machine
end

section
/-! PROOF. The fragmentation engine's commands (43_fragmentation.md R190 to R208): how a message is cut into chunks, and
each outcome of TXWR, TXMSG, TAGFREE and TXACK on a running engine as an equation. -/

namespace Sys2Proof.Machine

/-! ### The chunks of a message (43_fragmentation.md R190, R191) -/

section Chunks

variable (len : Nat)

/-- The packets of a message have room for it. -/
theorem le_pktCount_mul_mtu : len ≤ pktCount len * Config.mtu := by
  unfold pktCount ceilDiv Config.mtu
  omega

/-- The last packet of a message that is not empty is needed. -/
theorem pred_pktCount_mul_mtu_lt {len : Nat} (hpos : 0 < len) : (pktCount len - 1) * Config.mtu < len := by
  unfold pktCount ceilDiv Config.mtu
  omega

theorem pktCount_zero : pktCount 0 = 1 := rfl

theorem chunkLen_of_not_last {len i : Nat} (hi : i + 1 < pktCount len) : chunkLen len i = Config.mtu := by
  unfold chunkLen
  unfold pktCount ceilDiv at hi
  unfold Config.mtu at *
  omega

theorem chunkLen_last : chunkLen len (pktCount len - 1) = len - (pktCount len - 1) * Config.mtu := by
  have hroom := le_pktCount_mul_mtu len
  unfold chunkLen
  unfold Config.mtu at *
  omega

/-- The first n chunks hold the message's first bytes, as many as they have room for. -/
theorem sum_chunkLen_range (n : Nat) : ((List.range n).map (chunkLen len)).sum = min len (n * Config.mtu) := by
  induction n with
  | zero => simp
  | succ n ih =>
    rw [List.range_succ, List.map_append, List.sum_append, ih]
    simp only [List.map_singleton, List.sum_singleton, chunkLen, Config.mtu]
    omega

end Chunks

/-- Settles O35, from the lemma of each clause; the sum is that of the first `pktCount len` chunks. -/
theorem chunksCoverTheMessage : Obligations.ChunksCoverTheMessage := by
  intro len
  refine ⟨pktCount_pos len, le_pktCount_mul_mtu len, pred_pktCount_mul_mtu_lt, ?_, fun _ => chunkLen_of_not_last,
    chunkLen_last len, fun hpos => ⟨?_, chunkLen_le_mtu len _⟩, ?_⟩
  · rintro rfl
    exact pktCount_zero
  · rw [chunkLen_last]
    exact Nat.sub_pos_of_lt (pred_pktCount_mul_mtu_lt hpos)
  · rw [sum_chunkLen_range]
    exact Nat.min_eq_left (le_pktCount_mul_mtu len)

/-! ### TXWR (43_fragmentation.md R200) -/

theorem State.busy_eq_true {s : State} : s.busy = true ↔ s.tx.phase ≠ .idle := by simp [State.busy]

section Txwr

variable {s : State} {addr : BitVec 16} (d : Byte) (hr : s.halted = false)
include hr

theorem execTxwr_of_outside (ha : s.params.txmemCap ≤ addr.toNat) :
    execTxwr addr d s = .next (s.raise Opcode.txwr.code .outOfBounds 0x00#8) := by
  rw [execTxwr, whenRunning_of_running hr, if_pos ha]

theorem execTxwr_of_busy (ha : addr.toNat < s.params.txmemCap) (hb : s.tx.phase ≠ .idle) :
    execTxwr addr d s = .next (s.respond .errBusy 0#32) := by
  rw [execTxwr, whenRunning_of_running hr, if_neg (Nat.not_le.mpr ha), if_pos (State.busy_eq_true.mpr hb)]

theorem execTxwr_of_idle (ha : addr.toNat < s.params.txmemCap) (hidle : s.tx.phase = .idle) :
    execTxwr addr d s = .next (({ s with txMem := s.txMem.write addr.toNat d } : State).respond .ok 0#32) := by
  rw [execTxwr, whenRunning_of_running hr, if_neg (Nat.not_le.mpr ha), State.busy_eq_false.mpr hidle,
    State.txMemWrite_eq ha]
  rfl

end Txwr

/-- Settles O36, in the order of the checks: the address, then the phase; the write is one byte of one store. -/
theorem txwrWritesOneByte : Obligations.TxwrWritesOneByte := fun _ _ d hr =>
  ⟨fun ha => execTxwr_of_outside d hr ha, fun ha hb => execTxwr_of_busy d hr ha hb, fun ha hidle =>
    ⟨_, execTxwr_of_idle d hr ha hidle, rfl, rfl, Memory.read_write_same _ _ d,
      fun a hne => Memory.read_write_other _ _ a d hne⟩⟩

/-! ### TXMSG (43_fragmentation.md R201, R202) -/

section Txmsg

variable {s : State} {dest : Byte} {len : BitVec 16} (hr : s.halted = false)
include hr

theorem execTxmsg_of_busy (mode : TagMode) (hb : s.tx.phase ≠ .idle) :
    execTxmsg dest mode len s = .next (s.respond .errBusy 0#32) := by
  unfold execTxmsg
  rw [whenRunning_of_running hr, if_pos (State.busy_eq_true.mpr hb)]

variable (hidle : s.tx.phase = .idle)
include hidle

theorem execTxmsg_of_unbound (mode : TagMode) (hb : s.cfg.bound = false) :
    execTxmsg dest mode len s = .next (s.respond .errNoRoute 0#32) := by
  unfold execTxmsg
  rw [whenRunning_of_running hr, State.busy_eq_false.mpr hidle, hb]
  rfl

variable (hb : s.cfg.bound = true)
include hb

theorem execTxmsg_of_long (mode : TagMode) (hlen : s.params.txmemCap < len.toNat) :
    execTxmsg dest mode len s = .next (s.respond .errLen 0#32) := by
  unfold execTxmsg
  rw [whenRunning_of_running hr, State.busy_eq_false.mpr hidle, hb]
  exact if_pos hlen

variable (hlen : len.toNat ≤ s.params.txmemCap)
include hlen

theorem execTxmsg_of_explicit (g : BitVec 3) :
    execTxmsg dest (.explicit g) len s =
      .next ((s.startTx dest g false len.toNat).respond .ok (g.setWidth 32)) := by
  simp only [execTxmsg, whenRunning_of_running hr, State.busy_eq_false.mpr hidle, hb, if_neg (Nat.not_lt.mpr hlen)]
  rfl

theorem execTxmsg_of_exhausted (hfull : s.allocTag dest = none) :
    execTxmsg dest .auto len s = .next (s.respond .errTagExhausted 0#32) := by
  simp only [execTxmsg, whenRunning_of_running hr, State.busy_eq_false.mpr hidle, hb, if_neg (Nat.not_lt.mpr hlen),
    hfull]
  rfl

theorem execTxmsg_of_allocTag {g : BitVec 3} (hg : s.allocTag dest = some g) :
    execTxmsg dest .auto len s =
      .next (((s.takeTag dest g).startTx dest g true len.toNat).respond .ok (g.setWidth 32)) := by
  simp only [execTxmsg, whenRunning_of_running hr, State.busy_eq_false.mpr hidle, hb, if_neg (Nat.not_lt.mpr hlen), hg]
  rfl

end Txmsg

/-- Settles O37, in the order of the checks; in allocate mode the tag is what `State.allocTag` finds. -/
theorem txmsgStartsASend : Obligations.TxmsgStartsASend := by
  intro s dest len hr
  refine ⟨fun mode hb => execTxmsg_of_busy hr mode hb, fun mode hidle hb => execTxmsg_of_unbound hr hidle mode hb,
    fun mode hidle hb hlen => execTxmsg_of_long hr hidle hb mode hlen, fun hidle hb hlen hfull => ?_,
    fun g hidle hb hlen => execTxmsg_of_explicit hr hidle hb hlen g, fun g hidle hb hlen hfree hlow => ?_⟩
  · exact execTxmsg_of_exhausted hr hidle hb hlen (State.allocTag_eq_none.mpr hfull)
  · refine ⟨_, execTxmsg_of_allocTag hr hidle hb hlen (State.allocTag_eq_some.mpr ⟨hfree, hlow⟩), rfl, fun d u => ?_⟩
    rw [State.respond_tagBusy, State.startTx_tagBusy, State.takeTag_tagBusy, Bool.or_eq_true, decide_eq_true_eq]

/-! ### TAGFREE (43_fragmentation.md R208) -/

theorem execTagfree_of_running {s : State} (hr : s.halted = false) (dest : Byte) (g : BitVec 3) :
    execTagfree dest g s = .next ((s.releaseTag dest g).respond .ok 0#32) :=
  whenRunning_of_running hr

/-- Settles O38: the tag table after the release, entry by entry. -/
theorem tagfreeReleasesOneTag : Obligations.TagfreeReleasesOneTag := by
  intro s dest g hr
  refine ⟨_, execTagfree_of_running hr dest g, rfl, fun d u => ?_⟩
  rw [State.respond_tagBusy, State.releaseTag_tagBusy, Bool.and_eq_true, Bool.not_eq_true', decide_eq_false_iff_not]

/-! ### TXACK (43_fragmentation.md R206, R207) -/

section Txack

variable {s : State} (hr : s.halted = false)
include hr

theorem execTxack_of_none (st : Byte) (hw : s.tx.phase ≠ .waitAck) :
    execTxack st s = .next (s.raise Opcode.txack.code .unexpectedAck 0x00#8) := by
  rw [execTxack, whenRunning_of_running hr, if_neg (by simpa [State.waitingAck] using hw)]

variable (hw : s.tx.phase = .waitAck)
include hw

/-- With a packet outstanding, the acknowledgement and the packet index decide (43_fragmentation.md R206). -/
theorem execTxack_of_waitAck (st : Byte) :
    execTxack st s =
      if st = 0x00#8 then
        if s.tx.i + 1 = s.tx.n then .next ((s.ackPacket.finish .ok).respond .ok 0#32)
        else .next (({ s.ackPacket with tx := { s.ackPacket.tx with phase := .next } } : State).respond .ok 0#32)
      else .next ((s.retirePacket.finish .errBinding).respond .ok 0#32) := by
  rw [execTxack, whenRunning_of_running hr, if_pos (by simpa [State.waitingAck] using hw)]
  rfl

theorem execTxack_of_more (hmore : s.tx.i + 1 ≠ s.tx.n) :
    execTxack 0x00#8 s =
      .next (({ s.ackPacket with tx := { s.ackPacket.tx with phase := .next } } : State).respond .ok 0#32) := by
  rw [execTxack_of_waitAck hr hw, if_pos rfl, if_neg hmore]

theorem execTxack_of_last (hlast : s.tx.i + 1 = s.tx.n) :
    execTxack 0x00#8 s = .next ((s.ackPacket.finish .ok).respond .ok 0#32) := by
  rw [execTxack_of_waitAck hr hw, if_pos rfl, if_pos hlast]

theorem execTxack_of_failure {st : Byte} (hst : st ≠ 0x00#8) :
    execTxack st s = .next ((s.retirePacket.finish .errBinding).respond .ok 0#32) := by
  rw [execTxack_of_waitAck hr hw, if_neg hst]

end Txack

/-- Settles O39, by the phase, the acknowledgement and the packet index; a failure's `Finish` releases the message's own
tag. -/
theorem txackEndsOrContinuesTheSend : Obligations.TxackEndsOrContinuesTheSend := by
  intro s st hr
  refine ⟨fun hw => execTxack_of_none hr st hw, ?_, ?_, fun hw hst => ?_⟩
  · rintro hw rfl hmore
    exact execTxack_of_more hr hw hmore
  · rintro hw rfl hlast
    exact execTxack_of_last hr hw hlast
  · refine ⟨_, execTxack_of_failure hr hw hst, ?_, fun d u => ?_⟩
    · rw [State.finish_frame]
      rfl
    · rw [State.respond_tagBusy]
      exact State.finish_error_tagBusy s.retirePacket (by decide) d u

end Sys2Proof.Machine
end

section
/-! PROOF. The TX engine's turn (43_fragmentation.md R203, R204): each of its outcomes as an equation of the step. -/

namespace Sys2Proof.Machine

/-! ### The outcomes of the turn -/

section Turn

variable {s : State}

theorem step_of_txEngine {rest : List Input} (hin : s.inputs = .txEngine :: rest) :
    step s = txEngineStep (s.begin rest) := by
  simp [step, hin]

theorem State.txEnabled_eq_false (h : s.tx.phase ≠ .next ∨ (s.gate = false ∧ s.cfg.gatePolicy = .block)) :
    s.txEnabled = false := by
  refine Bool.eq_false_of_not_eq_true fun he => ?_
  obtain ⟨-, hnext, hnotHeld⟩ := State.txEnabled_iff.mp he
  obtain hphase | hheld := h
  · exact hphase hnext
  · exact hnotHeld hheld

theorem txEngineStep_of_disabled (he : s.txEnabled = false) : txEngineStep s = .next s := by
  simp [txEngineStep, he]

variable (he : s.txEnabled = true)
include he

theorem txEngineStep_of_closed (hg : s.gate = false) : txEngineStep s = .next (s.finish .errTxDisabled) := by
  simp [txEngineStep, he, hg]

theorem txEngineStep_of_full (hg : s.gate = true) (hfull : s.freeHandle = none) :
    txEngineStep s = .next (s.finish .errNoBuf) := by
  simp [txEngineStep, he, hg, hfull]

theorem txEngineStep_of_free {h : Nat} (hg : s.gate = true) (hfree : s.freeHandle = some h) :
    txEngineStep s = sendPacket s h := by
  simp [txEngineStep, he, hg, hfree]

end Turn

/-- Settles O41, by whether the TX engine has a step, and then by the gate; `Finish` says what a failure releases. -/
theorem txEngineEndsOrHoldsTheMessage : Obligations.TxEngineEndsOrHoldsTheMessage := by
  intro s rest hin hr
  refine ⟨fun hnone => ?_, fun code hnext hcause => ?_⟩
  · rw [step_of_txEngine hin]
    exact txEngineStep_of_disabled (State.txEnabled_eq_false hnone)
  · have hend : step s = .next ((s.begin rest).finish code) ∧ code ≠ .ok := by
      rw [step_of_txEngine hin]
      obtain ⟨hg, hpolicy, rfl⟩ | ⟨hg, hfull, rfl⟩ := hcause
      · exact ⟨txEngineStep_of_closed (State.txEnabled_iff.mpr ⟨hr, hnext, by simp [hpolicy]⟩) hg, by decide⟩
      · have hnone : (s.begin rest).freeHandle = none := State.freeHandle_eq_none.mpr hfull
        exact ⟨txEngineStep_of_full (State.txEnabled_iff.mpr ⟨hr, hnext, by simp [hg]⟩) hg hnone, by decide⟩
    obtain ⟨hstep, hcode⟩ := hend
    exact ⟨_, hstep, State.finish_frame _ code, State.finish_error_tagBusy (s.begin rest) hcode⟩

/-! ### The packet step (43_fragmentation.md R203) -/

/-- The bytes of the current packet: its header and its chunk of TxMem (43_fragmentation.md R191, R192). -/
def State.currentFrame (s : State) : List Byte :=
  s.packetHeader ++ s.txMem.readN (s.tx.i * Config.mtu) (chunkLen s.tx.len s.tx.i)

/-- The TX engine's buffer that holds the current packet, every byte around it drawn (43_fragmentation.md R203). -/
def State.packetBuffer (s : State) : Buffer :=
  { alloc := true, owner := .txeng, start := s.params.headroom, hdr := s.params.headroom
    endOff := s.params.headroom + Config.hdrLen + chunkLen s.tx.len s.tx.i
    data := (Memory.drawn s.draws).writeN s.params.headroom s.currentFrame }

/-- The current packet in buffer h and handed to the binding (43_fragmentation.md R203). -/
def State.withPacket (s : State) (h : Nat) : State :=
  { s with
    bufs := s.bufs.set h s.packetBuffer
    tx := { s.tx with cur := h, phase := .waitAck }
    events := s.events ++ [.pktOut h s.currentFrame]
    draws := s.draws + 1 }

@[simp] theorem State.currentFrame_length (s : State) :
    s.currentFrame.length = Config.hdrLen + chunkLen s.tx.len s.tx.i := by
  simp [State.currentFrame]

/-- A state whose next turn of the TX engine sends a packet in buffer h (43_fragmentation.md R203), its message in TxMem
(10_state.md R37). -/
structure State.Sends (s : State) (h : Nat) : Prop where
  running : s.halted = false
  next : s.tx.phase = .next
  gate : s.gate = true
  inTxMem : s.tx.len ≤ s.params.txmemCap
  free : s.lowestFree h

theorem step_of_sends {s : State} {h : Nat} {rest : List Input} (hs : s.Sends h) (hin : s.inputs = .txEngine :: rest) :
    step s = .next ((s.begin rest).withPacket h) := by
  have henabled : (s.begin rest).txEnabled = true := State.txEnabled_iff.mpr ⟨hs.running, hs.next, by simp [hs.gate]⟩
  have hfree : (s.begin rest).freeHandle = some h := State.freeHandle_eq_some.mpr hs.free
  rw [step_of_txEngine hin, txEngineStep_of_free henabled hs.gate hfree]
  exact sendPacket_eq (s := s.begin rest) hs.free.1 hs.inTxMem

theorem Memory.readN_eq_map (m : Memory) (a n : Nat) :
    m.readN a n = (List.range n).map (fun j => m.read (a + j)) :=
  List.ext_getElem (by simp) fun j h1 h2 => by simp [Memory.readN_getElem]

/-- Settles O40: the step's state is one equation, and the laws of the store say what the buffer holds. -/
theorem txEngineSendsTheNextPacket : Obligations.TxEngineSendsTheNextPacket := by
  intro s rest h hin hr hnext hg hlen hh hfree hlow
  have hstep := step_of_sends ⟨hr, hnext, hg, hlen, hh, hfree, hlow⟩ hin
  have hbuf : ((s.begin rest).withPacket h).buf h = s.packetBuffer := State.setBuf_buf_same s.packetBuffer hh
  refine ⟨_, s.currentFrame, hstep, ?_, rfl, State.setBuf_nbuf s h s.packetBuffer,
    fun _ hne => State.setBuf_buf_other s s.packetBuffer hne, ?_⟩
  · rw [State.currentFrame, Memory.readN_eq_map]
    rfl
  · rw [hbuf]
    refine ⟨rfl, rfl, rfl, rfl, ?_, fun j hj => Memory.read_writeN _ _ j _ hj, fun a ha => ?_⟩
    · rw [State.currentFrame_length, ← Nat.add_assoc]
      rfl
    · exact Memory.read_writeN_other _ _ a _ ha

end Sys2Proof.Machine
end

section
/-! PROOF. What no step does: a packet does not leave through a closed gate (43_fragmentation.md R204), and a message that
is being sent does not change (70_reset_and_hazards.md R334). -/

namespace Sys2Proof.Machine

section Effects

variable {s t : State}

/-! ### The gate (43_fragmentation.md R204) -/

/-- From `s` to `t` only events that are no PKT_OUT are emitted. -/
def State.emitsNoPacket (s t : State) : Prop :=
  ∃ es : List Event, t.events = s.events ++ es ∧ ∀ h frame, Event.pktOut h frame ∉ es

theorem State.emitsNoPacket.of_events_eq (h : t.events = s.events) : s.emitsNoPacket t :=
  ⟨[], by rw [h, List.append_nil], nofun⟩

theorem State.emitsNoPacket.of_event {e : Event} (h : t.events = s.events ++ [e])
    (he : ∀ h frame, Event.pktOut h frame ≠ e) : s.emitsNoPacket t :=
  ⟨[e], h, fun b frame hmem => he b frame (List.mem_singleton.mp hmem)⟩

theorem State.finish_emitsNoPacket (s : State) (code : Status) : s.emitsNoPacket (s.finish code) :=
  .of_event (State.finish_events s code) nofun

theorem PacketAnswer.emitsNoPacket (h : PacketAnswer s t) : s.emitsNoPacket t := by
  cases h with
  | accepted => exact .of_events_eq rfl
  | dropped reason src tag => exact .of_event (dropPacket_events s reason src tag) nofun
  | delivered src bytes => exact .of_event (deliverMessage_events s src bytes) nofun

theorem reassemble_emitsNoPacket (s : State) (hd : Header) (pay : List Byte) :
    s.emitsNoPacket (reassemble s hd pay) := by
  obtain ⟨u, hctx, hans⟩ := reassemble_effect s pay hd
  obtain ⟨es, hes, hnone⟩ := hans.emitsNoPacket
  exact ⟨es, hctx.events ▸ hes, hnone⟩

theorem CommandEffect.emitsNoPacket {i : Instr} (h : CommandEffect i s t) : s.emitsNoPacket t := by
  cases h with
  | received => exact reassemble_emitsNoPacket (s.consumed _) _ _
  | sendFailed => exact State.finish_emitsNoPacket s.retirePacket .errBinding
  | messageSent => exact State.finish_emitsNoPacket s.ackPacket .ok
  | wroteCfg =>
    refine .of_events_eq ?_
    unfold writeCfg
    split <;> rfl
  | _ => exact .of_events_eq rfl

theorem txEngineStep_emitsNoPacket (hg : s.gate = false) (h : txEngineStep s = .next t) : s.emitsNoPacket t := by
  cases he : s.txEnabled with
  | false =>
    rw [txEngineStep_of_disabled he] at h
    cases h
    exact .of_events_eq rfl
  | true =>
    rw [txEngineStep_of_closed he hg] at h
    cases h
    exact State.finish_emitsNoPacket s .errTxDisabled

/-! ### The message being sent (70_reset_and_hazards.md R334) -/

/-- From `s` to `t` neither TxMem nor what TXMSG gave the message changes. -/
def State.keepsMessage (s t : State) : Prop :=
  t.txMem = s.txMem ∧ t.tx.dest = s.tx.dest ∧ t.tx.tag = s.tx.tag ∧ t.tx.tagAlloc = s.tx.tagAlloc ∧
  t.tx.len = s.tx.len ∧ t.tx.n = s.tx.n

theorem State.keepsMessage.of_eq (hmem : t.txMem = s.txMem) (htx : t.tx = s.tx) : s.keepsMessage t := by
  refine ⟨hmem, ?_⟩
  rw [htx]
  exact ⟨rfl, rfl, rfl, rfl, rfl⟩

theorem State.finish_keepsMessage (s : State) (code : Status) : s.keepsMessage (s.finish code) := by
  rw [State.finish_frame]
  exact ⟨rfl, rfl, rfl, rfl, rfl, rfl⟩

theorem reassemble_keepsMessage (s : State) (hd : Header) (pay : List Byte) :
    s.keepsMessage (reassemble s hd pay) := by
  rw [reassemble_frame]
  exact .of_eq rfl rfl

/-- TXWR and TXMSG write a message only while none is being sent. -/
theorem CommandEffect.keepsMessage {i : Instr} (h : CommandEffect i s t) (hbusy : s.tx.phase ≠ .idle) :
    s.keepsMessage t := by
  cases h with
  | txByteWritten _ hidle | startedExplicit hidle | startedAuto _ hidle => exact absurd hidle hbusy
  | sendFailed => exact State.finish_keepsMessage s.retirePacket .errBinding
  | messageSent => exact State.finish_keepsMessage s.ackPacket .ok
  | packetSent => exact ⟨rfl, rfl, rfl, rfl, rfl, rfl⟩
  | received => exact reassemble_keepsMessage (s.consumed _) _ _
  | wroteCfg =>
    unfold writeCfg
    split <;> exact .of_eq rfl rfl
  | _ => exact .of_eq rfl rfl

theorem TurnEffect.keepsMessage (h : TurnEffect s t) : s.keepsMessage t := by
  cases h with
  | nothing => exact .of_eq rfl rfl
  | ended code => exact State.finish_keepsMessage s code
  | sent b _ _ _ hsend =>
    obtain ⟨_, _, u, hw, rfl⟩ := sendPacket_next hsend
    obtain ⟨-, rfl⟩ := State.arenaWriteN_some hw
    exact ⟨rfl, rfl, rfl, rfl, rfl, rfl⟩

theorem StepEffect.keepsMessage (h : StepEffect s t) (hbusy : s.tx.phase ≠ .idle)
    (hreset : ∀ rest, s.inputs ≠ .reset :: rest) : s.keepsMessage t := by
  cases h with
  | idle | turnedAway | undecodable => exact .of_eq rfl rfl
  | command _ rest _ _ _ _ he => exact he.keepsMessage hbusy
  | turn _ _ _ he => exact he.keepsMessage
  | reset rest hin => exact absurd hin (hreset rest)

end Effects

/-- Settles O21: of the effects of a step only the TX engine's turn can emit a PKT_OUT, and its gate is closed. -/
theorem noPacketLeavesThroughAClosedGate : Obligations.NoPacketLeavesThroughAClosedGate := by
  intro s t hg h
  cases step_effect h with
  | idle | turnedAway | undecodable => exact State.emitsNoPacket.of_events_eq rfl
  | command _ _ _ _ _ _ he => exact he.emitsNoPacket
  | turn rest _ hin =>
    rw [step_of_txEngine hin] at h
    exact txEngineStep_emitsNoPacket (s := s.begin rest) hg h
  | reset => exact State.emitsNoPacket.of_event rfl nofun

/-- Settles O24, by the cases of what a step can do; TXWR and TXMSG are turned away by the phase alone. -/
theorem messageIsStableWhileSending : Obligations.MessageIsStableWhileSending :=
  ⟨fun _ _ hbusy hreset h => (step_effect h).keepsMessage hbusy hreset, fun _ hbusy hr =>
    ⟨fun _ d ha => execTxwr_of_busy d hr ha hbusy, fun _ mode _ => execTxmsg_of_busy hr mode hbusy⟩⟩

end Sys2Proof.Machine
end

section
/-! PROOF. A whole send (43_fragmentation.md R209): one packet's two turns as one equation, then induction on the packets
still to send. -/

namespace Sys2Proof.Machine

/-! ### One packet of a message (43_fragmentation.md R190 to R192) -/

/-- Chunk i of message `m` (43_fragmentation.md R191). -/
def chunkOf (m : List Byte) (i : Nat) : List Byte := (m.drop (i * Config.mtu)).take Config.mtu

/-- Packet i of message `m` (43_fragmentation.md R192). -/
def packetOf (dest src : Byte) (tag : BitVec 3) (m : List Byte) (i : Nat) : List Byte :=
  hdrEncode dest src (packetControl i (pktCount m.length) tag) ++ chunkOf m i

/-- The `k` packets of message `m` from packet i on. -/
def packetsFrom (dest src : Byte) (tag : BitVec 3) (m : List Byte) (i k : Nat) : List (List Byte) :=
  (List.range' i k).map (packetOf dest src tag m)

@[simp] theorem chunkOf_length (m : List Byte) (i : Nat) : (chunkOf m i).length = chunkLen m.length i := by
  simp [chunkOf, chunkLen]

@[simp] theorem packetsFrom_zero (dest src : Byte) (tag : BitVec 3) (m : List Byte) (i : Nat) :
    packetsFrom dest src tag m i 0 = [] := rfl

theorem packetsFrom_succ (dest src : Byte) (tag : BitVec 3) (m : List Byte) (i k : Nat) :
    packetsFrom dest src tag m i (k + 1) =
      packetOf dest src tag m i :: packetsFrom dest src tag m (i + 1) k := rfl

theorem packetsOf_eq_packetsFrom (dest src : Byte) (tag : BitVec 3) (m : List Byte) :
    packetsOf dest src tag m = packetsFrom dest src tag m 0 (pktCount m.length) := by
  rw [packetsFrom, ← List.range_eq_range']
  rfl

theorem packetsOf_getD (dest src : Byte) (tag : BitVec 3) {m : List Byte} {i : Nat} (hi : i < pktCount m.length) :
    (packetsOf dest src tag m).getD i [] = packetOf dest src tag m i := by
  rw [List.getD_eq_getElem _ _ (by simpa using hi), packetsOf_getElem]
  rfl

section Send

variable {s : State} {h : Nat}

/-- The current frame is the packet of its index of the message in TxMem (43_fragmentation.md R209). -/
theorem State.currentFrame_eq_packetOf (hn : s.tx.n = pktCount s.tx.len) :
    s.currentFrame = packetOf s.tx.dest s.cfg.localEid s.tx.tag s.txMessage s.tx.i := by
  rw [packetOf, chunkOf, State.txMessage_chunk, State.txMessage_length, ← hn]
  rfl

/-! ### The two turns of one packet -/

/-- The state in which the packet's acknowledgement is executed, with the inputs `rest` after it. -/
def State.outstanding (s : State) (h : Nat) (rest : List Input) : State := (s.withPacket h).begin rest

/-- The packet's buffer given back (43_fragmentation.md R206). -/
def State.retiredBuffer (s : State) : Buffer := { s.packetBuffer with alloc := false, owner := .cmd }

/-- The state after a packet sent from buffer h and acknowledged: the TX engine is at `x`, and the events `es` were
emitted (43_fragmentation.md R203, R206). -/
def State.afterTurns (s : State) (h : Nat) (rest : List Input) (x : TxEngine) (es : List Event) : State :=
  { s with
    bufs := s.bufs.set h s.retiredBuffer
    tx := x
    events := s.events ++ es
    draws := s.draws + 1
    inputs := rest
    response := some ⟨.ok, 0#32⟩ }

/-- The TX engine after a packet that is not the last (43_fragmentation.md R206). -/
def TxEngine.nextPacket (x : TxEngine) (h : Nat) : TxEngine := { x with phase := .next, i := x.i + 1, cur := h }

/-- The TX engine after the last packet (43_fragmentation.md R206, R207). -/
def TxEngine.ended (x : TxEngine) (h : Nat) : TxEngine := { x with phase := .idle, code := .ok, i := x.i + 1, cur := h }

theorem State.outstanding_ackPacket (hh : h < s.nbuf) (rest : List Input) :
    (s.outstanding h rest).ackPacket = { s.outstanding h rest with
      bufs := s.bufs.set h s.retiredBuffer
      tx := { s.tx with phase := .waitAck, i := s.tx.i + 1, cur := h } } := by
  have hbuf : (s.outstanding h rest).buf h = s.packetBuffer := State.setBuf_buf_same s.packetBuffer hh
  have hcur : (s.outstanding h rest).tx.cur = h := rfl
  have hbufs : (s.outstanding h rest).bufs = s.bufs.set h s.packetBuffer := rfl
  rw [State.ackPacket, State.retirePacket, State.setBuf, hcur, hbuf, hbufs, List.set_set]
  rfl

/-- The word of the acknowledgement is TXACK's of success (30_encoding.md R101). -/
theorem decode_txack_zero : decode [0x2300000000000000#64] = .ok (.txack 0x00#8) := rfl

/-- The buffer of an acknowledged packet is again the lowest free one. -/
theorem State.afterTurns_lowestFree (hfree : s.lowestFree h) (rest : List Input) (x : TxEngine) (es : List Event) :
    (s.afterTurns h rest x es).lowestFree h := by
  obtain ⟨hlt, -, hlow⟩ := hfree
  have hbuf : (s.afterTurns h rest x es).buf = (s.setBuf h s.retiredBuffer).buf := rfl
  have hnbuf : (s.afterTurns h rest x es).nbuf = (s.setBuf h s.retiredBuffer).nbuf := rfl
  rw [State.lowestFree, hbuf, hnbuf, State.setBuf_nbuf, State.setBuf_buf_same s.retiredBuffer hlt]
  refine ⟨hlt, rfl, fun j hj => ?_⟩
  rw [State.setBuf_buf_other s s.retiredBuffer (Nat.ne_of_lt hj)]
  exact hlow j hj

section Turns

variable {rest : List Input} (hs : s.Sends h)
include hs

theorem execTxack_outstanding_more (hmore : s.tx.i + 1 ≠ s.tx.n) :
    execTxack 0x00#8 (s.outstanding h rest) =
      .next (s.afterTurns h rest (s.tx.nextPacket h) [.pktOut h s.currentFrame]) := by
  rw [execTxack_of_more (s := s.outstanding h rest) hs.running rfl hmore, State.outstanding_ackPacket hs.free.1]
  rfl

theorem execTxack_outstanding_last (hlast : s.tx.i + 1 = s.tx.n) :
    execTxack 0x00#8 (s.outstanding h rest) =
      .next (s.afterTurns h rest (s.tx.ended h) [.pktOut h s.currentFrame, .txDone .ok]) := by
  rw [execTxack_of_last (s := s.outstanding h rest) hs.running rfl hlast, State.outstanding_ackPacket hs.free.1,
    State.finish_frame, State.finish_ok_tags, State.afterTurns, List.append_cons s.events (.pktOut h s.currentFrame)]
  rfl

/-- The packet goes out and its acknowledgement is executed. -/
theorem runSteps_of_sends {t : State} (k : Nat)
    (hin : s.inputs = .txEngine :: .command [0x2300000000000000#64] :: rest)
    (hack : execTxack 0x00#8 (s.outstanding h rest) = .next t) : runSteps (k + 2) s = runSteps k t := by
  rw [runSteps_succ_of_next (k + 1) (step_of_sends hs hin)]
  exact runSteps_succ_of_next k ((step_of_command rfl).trans ((runTransaction_of_ok decode_txack_zero _).trans hack))

theorem State.Sends.nextPacket :
    (s.afterTurns h rest (s.tx.nextPacket h) [.pktOut h s.currentFrame]).Sends h where
  running := hs.running
  next := rfl
  gate := hs.gate
  inTxMem := hs.inTxMem
  free := State.afterTurns_lowestFree hs.free _ _ _

end Turns

end Send

/-! ### Every packet of a send -/

/-- The PKT_OUT events of the packets `frames`, all in buffer h. -/
def packetEvents (h : Nat) (frames : List (List Byte)) : List Event := frames.map fun frame => .pktOut h frame

/-- `SentFrom s h k rest t`: from `s` to `t` the last `k` packets of the message left in buffer h and the message ended with
TX_DONE(OK), its tag as it was; the inputs `rest` are left. -/
structure SentFrom (s : State) (h k : Nat) (rest : List Input) (t : State) : Prop where
  events : t.events = s.events ++
    packetEvents h (packetsFrom s.tx.dest s.cfg.localEid s.tx.tag s.txMessage s.tx.i k) ++ [.txDone .ok]
  tx : t.tx = { s.tx with phase := .idle, code := .ok, i := s.tx.n, cur := h }
  inputs : t.inputs = rest
  txMem : t.txMem = s.txMem
  busyTags : t.busyTags = s.busyTags
  free : t.lowestFree h

section Send

variable {s t : State} {h k : Nat} {rest : List Input}

theorem SentFrom.last (hs : s.Sends h) (hn : s.tx.n = pktCount s.tx.len) (hlast : s.tx.i + 1 = s.tx.n) :
    SentFrom s h 1 rest
      (s.afterTurns h rest (s.tx.ended h) [.pktOut h s.currentFrame, .txDone .ok]) where
  events := by
    rw [packetsFrom_succ, packetsFrom_zero, ← State.currentFrame_eq_packetOf hn, List.append_assoc]
    rfl
  tx := by
    rw [← hlast]
    rfl
  inputs := rfl
  txMem := rfl
  busyTags := rfl
  free := State.afterTurns_lowestFree hs.free _ _ _

theorem SentFrom.next {rest' : List Input} (hn : s.tx.n = pktCount s.tx.len)
    (ht : SentFrom (s.afterTurns h rest' (s.tx.nextPacket h) [.pktOut h s.currentFrame]) h k rest t) :
    SentFrom s h (k + 1) rest t where
  events := by
    rw [ht.events, packetsFrom_succ, ← State.currentFrame_eq_packetOf hn, packetEvents, packetEvents, List.map_cons,
      List.append_cons s.events]
    rfl
  tx := ht.tx
  inputs := ht.inputs
  txMem := ht.txMem
  busyTags := ht.busyTags
  free := ht.free

/-- The packets still to send, one after another. -/
theorem runSteps_sendTurns (hs : s.Sends h) (hn : s.tx.n = pktCount s.tx.len) (hleft : s.tx.i + (k + 1) = s.tx.n)
    (hin : s.inputs = sendTurns (k + 1) ++ rest) :
    ∃ t, runSteps (2 * (k + 1)) s = .next t ∧ SentFrom s h (k + 1) rest t := by
  induction k generalizing s with
  | zero => exact ⟨_, runSteps_of_sends hs 0 hin (execTxack_outstanding_last hs hleft), .last hs hn hleft⟩
  | succ k ih =>
    rw [sendTurns_succ] at hin
    have hleft' : s.tx.i + 1 + (k + 1) = s.tx.n := (Nat.add_right_comm s.tx.i 1 (k + 1)).trans hleft
    obtain ⟨t, hrun, hsent⟩ := ih (hs.nextPacket (rest := sendTurns (k + 1) ++ rest)) hn hleft' rfl
    have hpacket := runSteps_of_sends hs (2 * (k + 1)) hin (execTxack_outstanding_more hs (by omega))
    exact ⟨t, hpacket.trans hrun, .next hn hsent⟩

end Send

/-- Settles O54: the frame of a packet step is the packet of its index; and from packet 0 the turns send all of them. -/
theorem sendEmitsThePacketsOfTheMessage : Obligations.SendEmitsThePacketsOfTheMessage := by
  refine ⟨fun s rest h hin hr hnext hg hlen hn hi hfree => ?_, fun s rest h hinv hin hr hnext hi hg hfree => ?_⟩
  · refine ⟨_, step_of_sends ⟨hr, hnext, hg, hlen, hfree⟩ hin, ?_⟩
    rw [packetsOf_getD _ _ _ (by rw [State.txMessage_length, ← hn]; exact hi), ← State.currentFrame_eq_packetOf hn]
    rfl
  · obtain ⟨-, -, hlen, -, hactive⟩ := hinv.txInv.fieldsOk
    obtain ⟨hn, hlt⟩ := hactive (by rw [hnext]; decide)
    obtain ⟨k, hk⟩ := Nat.exists_eq_add_one.mpr (Nat.zero_lt_of_lt hlt)
    rw [hk] at hin
    obtain ⟨t, hrun, hsent⟩ := runSteps_sendTurns ⟨hr, hnext, hg, hlen, hfree⟩ hn (by omega) hin
    rw [← hk] at hrun hsent
    have hevents := hsent.events
    rw [hi, hn, ← State.txMessage_length, ← packetsOf_eq_packetsFrom] at hevents
    exact ⟨t, hrun, hevents, hsent.tx, hsent.inputs, hsent.txMem, hsent.busyTags, hsent.free⟩

end Sys2Proof.Machine
end

section
/-! PROOF. A whole message received (44_reassembly.md R231 to R235, R240): the packets of a message in their order, first by
the reassembly function with anything in between that leaves the receiver alone, then by runs of RXPKT. -/

namespace Sys2Proof.Machine

/-! ### The chunks of a message, put together (43_fragmentation.md R191) -/

theorem take_append_chunkOf (m : List Byte) (i : Nat) :
    m.take (i * Config.mtu) ++ chunkOf m i = m.take ((i + 1) * Config.mtu) := by
  rw [chunkOf, Nat.add_one_mul, List.take_add]

theorem chunkOf_zero (m : List Byte) : chunkOf m 0 = m.take (1 * Config.mtu) := by
  simp [chunkOf]

theorem take_pktCount_mul_mtu (m : List Byte) : m.take (pktCount m.length * Config.mtu) = m :=
  List.take_of_length_le (le_pktCount_mul_mtu m.length)

theorem mul_mtu_add_chunkLen_le {len i : Nat} (hi : i < pktCount len) : i * Config.mtu + chunkLen len i ≤ len := by
  unfold pktCount ceilDiv at hi
  unfold chunkLen
  unfold Config.mtu at *
  omega

/-- A run written behind the first `n` bytes reads back behind them. -/
theorem Memory.readN_writeN_append (mem : Memory) (n : Nat) (bs : List Byte) :
    (mem.writeN n bs).readN 0 (n + bs.length) = mem.readN 0 n ++ bs := by
  rw [Memory.readN_append, Nat.zero_add, Memory.readN_writeN]
  congr 1
  exact Memory.readN_congr fun j hj => Memory.read_writeN_other _ _ _ _ (.inl (by omega))

/-! ### What reassembly reads of a packet (44_reassembly.md R230, R231) -/

section Control

variable (i n : Nat) (tag : BitVec 3)

@[simp] theorem packetControl_som : (packetControl i n tag).som = decide (i = 0) := rfl

@[simp] theorem packetControl_eom : (packetControl i n tag).eom = decide (i + 1 = n) := rfl

@[simp] theorem packetControl_tag : (packetControl i n tag).tag = tag := rfl

/-- SEQ counts the packets modulo 4 (43_fragmentation.md R192). -/
@[simp] theorem packetControl_seq : (packetControl i n tag).seq = BitVec.ofNat 2 i :=
  BitVec.eq_of_toNat_eq (by simp [packetControl])

end Control

/-- `Reassemble` of a packet's bytes. -/
def receivePacket (s : State) (f : List Byte) : State :=
  reassemble s (hdrDecodeBytes (f.take Config.hdrLen)) (f.drop Config.hdrLen)

theorem receivePacket_packetOf {s : State} {dest : Byte} (src : Byte) (tag : BitVec 3) (m : List Byte) (i : Nat)
    (haccepts : s.accepts dest = true) :
    receivePacket s (packetOf dest src tag m i) =
      if i = 0 then reassembleFirst s src (packetControl i (pktCount m.length) tag) (chunkOf m i)
      else reassembleNext s src (packetControl i (pktCount m.length) tag) (chunkOf m i) := by
  have hhdr : hdrDecodeBytes ((packetOf dest src tag m i).take Config.hdrLen) = _ :=
    hdrDecodeBytes_hdrEncode dest src (packetControl i (pktCount m.length) tag)
  have hpay : (packetOf dest src tag m i).drop Config.hdrLen = chunkOf m i := rfl
  have hlen : (chunkOf m i).length ≤ Config.mtu := by
    rw [chunkOf_length]
    exact chunkLen_le_mtu _ _
  rw [receivePacket, hhdr, hpay, reassemble_passes rfl haccepts hlen]
  simp only [packetControl_som, decide_eq_true_eq]

/-! ### The contexts of the other keys -/

/-- From `s` to `t` every live context of a key other than (src, tag) is as it was. -/
def State.othersKept (src : Byte) (tag : BitVec 3) (s t : State) : Prop :=
  t.nctx = s.nctx ∧ ∀ k < s.nctx, (s.ctx k).valid = true → ¬s.holds k src tag → t.ctx k = s.ctx k

section Others

variable {src : Byte} {tag : BitVec 3} {s t u : State}

theorem State.ctx_eq_of_ctxs_eq (h : t.ctxs = s.ctxs) : t.ctx = s.ctx :=
  funext fun k => congrArg (·.getD k (Context.afterReset 0)) h

theorem State.nctx_eq_of_ctxs_eq (h : t.ctxs = s.ctxs) : t.nctx = s.nctx := congrArg List.length h

theorem State.othersKept.of_ctxs_eq (h : t.ctxs = s.ctxs) : State.othersKept src tag s t :=
  ⟨State.nctx_eq_of_ctxs_eq h, fun k _ _ _ => congrFun (State.ctx_eq_of_ctxs_eq h) k⟩

theorem State.othersKept.trans (hst : State.othersKept src tag s t) (htu : State.othersKept src tag t u) :
    State.othersKept src tag s u := by
  obtain ⟨hn, hctx⟩ := hst
  obtain ⟨hn', hctx'⟩ := htu
  refine ⟨hn'.trans hn, fun k hk hv hother => ?_⟩
  have e := hctx k hk hv hother
  exact (hctx' k (hn ▸ hk) (e ▸ hv) fun ⟨_, hkey⟩ => hother ⟨hk, e ▸ hkey⟩).trans e

/-- A slot that is free or the key's own may be written. -/
theorem State.setCtx_othersKept {k : Nat} (c : Context) (hk : (s.ctx k).valid = false ∨ s.holds k src tag) :
    State.othersKept src tag s (s.setCtx k c) := by
  refine ⟨State.setCtx_nctx s k c, fun j _ hv hother => State.setCtx_ctx_other s c ?_⟩
  rintro rfl
  obtain hfree | hkey := hk
  · exact absurd hv (by simp [hfree])
  · exact hother hkey

theorem State.destroyKey_othersKept : State.othersKept src tag s (s.destroyKey src tag) := by
  unfold State.destroyKey
  split
  · exact .of_ctxs_eq rfl
  · next k hk => exact State.setCtx_othersKept _ (.inr (State.lookup_some hk))

end Others

/-! ### The receiver of a message -/

/-- The receiver's part of the state is in order, it accepts packets for `dest`, and it has room for message `m`. -/
structure State.CanReceive (s : State) (dest : Byte) (m : List Byte) : Prop where
  contexts : s.contextInv
  accepts : s.accepts dest = true
  packetFits : Config.mtu ≤ s.params.maxMsgLen
  messageFits : m.length ≤ s.params.maxMsgLen

section Receiver

variable {s t u : State} {dest : Byte} {m : List Byte}

theorem State.CanReceive.of_same (hs : s.CanReceive dest m) (hparams : t.params = s.params) (hcfg : t.cfg = s.cfg)
    (hctxs : t.contextInv) : t.CanReceive dest m where
  contexts := hctxs
  accepts := by
    rw [State.accepts, hcfg, hparams]
    exact hs.accepts
  packetFits := hparams ▸ hs.packetFits
  messageFits := hparams ▸ hs.messageFits

theorem State.CanReceive.of_sameReceiver (hs : s.CanReceive dest m) (hsu : s.sameReceiver u) : u.CanReceive dest m := by
  obtain ⟨hparams, hcfg, hctxs, -⟩ := hsu
  refine hs.of_same hparams hcfg ?_
  rw [State.contextInv, hctxs, hparams]
  exact hs.contexts

theorem PacketAnswer.contextInv (h : PacketAnswer s t) (hs : s.contextInv) : t.contextInv := by
  cases h with
  | accepted | dropped | delivered => exact hs

theorem reassemble_contextInv (hs : s.contextInv) (hmtu : Config.mtu ≤ s.params.maxMsgLen) (hd : Header)
    (pay : List Byte) : (reassemble s hd pay).contextInv := by
  obtain ⟨u, hctx, hans⟩ := reassemble_effect s pay hd
  exact hans.contextInv (hctx.contextInv hmtu hs)

theorem State.CanReceive.receivePacket (hs : s.CanReceive dest m) (f : List Byte) :
    (receivePacket s f).CanReceive dest m := by
  refine hs.of_same ?_ ?_ (reassemble_contextInv hs.contexts hs.packetFits _ _)
  · rw [Machine.receivePacket, reassemble_frame]
  · rw [Machine.receivePacket, reassemble_frame]

end Receiver

/-! ### A slot for the key (44_reassembly.md R233) -/

section Slot

variable {s t : State} {src : Byte} {tag : BitVec 3}

/-- Some slot is free, or is the key's own. -/
def State.hasSlot (s : State) (src : Byte) (tag : BitVec 3) : Prop :=
  ∃ k < s.nctx, (s.ctx k).valid = false ∨ s.holds k src tag

theorem State.hasSlot.of_ctxs_eq (hs : s.hasSlot src tag) (h : t.ctxs = s.ctxs) : t.hasSlot src tag := by
  have hctx := State.ctx_eq_of_ctxs_eq h
  have hn := State.nctx_eq_of_ctxs_eq h
  obtain ⟨k, hk, hfree⟩ := hs
  refine ⟨k, hn ▸ hk, ?_⟩
  rw [State.holds, hctx, hn]
  exact hfree

/-- What is live once the key's context is destroyed was live before and has another key. -/
theorem State.valid_of_destroyKey_valid (hs : s.contextInv) {k : Nat} (hk : k < s.nctx)
    (hv : ((s.destroyKey src tag).ctx k).valid = true) : (s.ctx k).valid = true ∧ ¬s.holds k src tag := by
  unfold State.destroyKey at hv
  split at hv
  · next hnone => exact ⟨hv, State.lookup_eq_none.mp hnone k hk⟩
  · next j hj =>
    by_cases hne : k = j
    · subst hne
      rw [State.destroyCtx, State.setCtx_ctx_same _ hk] at hv
      contradiction
    · rw [State.destroyCtx, State.setCtx_ctx_other _ _ hne] at hv
      exact ⟨hv, fun hkey => hne (State.holds_unique hs hkey (State.lookup_some hj))⟩

/-- Once the key's context is destroyed, a slot is free. -/
theorem State.hasSlot.destroyKey_freeSlot (hslot : s.hasSlot src tag) (hs : s.contextInv) :
    ∃ k, (s.destroyKey src tag).freeSlot = some k := by
  refine Option.ne_none_iff_exists'.mp fun hnone => ?_
  obtain ⟨k, hk, hfree⟩ := hslot
  have hlive := State.freeSlot_eq_none.mp hnone k ((State.destroyKey_nctx s src tag).symm ▸ hk)
  obtain ⟨hv, hother⟩ := State.valid_of_destroyKey_valid hs hk hlive
  obtain hfree | hkey := hfree
  · exact absurd hv (by simp [hfree])
  · exact hother hkey

/-- The key's context written with one that is not valid leaves the key without a context. -/
theorem State.setCtx_noContext (hs : s.contextInv) {k : Nat} {c : Context} (hk : s.holds k src tag)
    (hc : c.valid = false) : (s.setCtx k c).noContext src tag := by
  intro j _ hj
  by_cases hne : j = k
  · subst hne
    exact nomatch hc.symm.trans (State.setCtx_holds_same hj).1
  · exact hne (State.holds_unique hs (State.setCtx_holds_other hne hj) hk)

end Slot

/-! ### The context of a message that is being received -/

/-- The context holds the first `i` chunks of message `m` and waits for packet i (44_reassembly.md R234). -/
structure Context.Collects (c : Context) (m : List Byte) (i : Nat) : Prop where
  exp : c.exp = BitVec.ofNat 2 i
  len : c.len = i * Config.mtu
  bytes : c.acc.readN 0 c.len = m.take (i * Config.mtu)

/-- The context that the first packet of message `m` opens in a slot whose accumulator is `mem` (44_reassembly.md R233). -/
def Context.ofFirst (src : Byte) (tag : BitVec 3) (m : List Byte) (mem : Memory) : Context :=
  { valid := true, src := src, tag := tag, exp := BitVec.ofNat 2 0 + 1#2, len := (chunkOf m 0).length
    acc := mem.writeN 0 (chunkOf m 0) }

section Collects

variable {c : Context} {m : List Byte} {i : Nat}

theorem Context.ofFirst_collects (src : Byte) (tag : BitVec 3) (mem : Memory) (hmore : 1 < pktCount m.length) :
    (Context.ofFirst src tag m mem).Collects m 1 where
  exp := rfl
  len := by
    rw [Context.ofFirst, chunkOf_length, chunkLen_of_not_last hmore, Nat.one_mul]
  bytes := (Memory.readN_writeN mem 0 (chunkOf m 0)).trans (chunkOf_zero m)

theorem Context.Collects.appended_bytes (hc : c.Collects m i) :
    (c.appended (chunkOf m i)).acc.readN 0 (c.appended (chunkOf m i)).len = m.take ((i + 1) * Config.mtu) := by
  rw [Context.appended, Memory.readN_writeN_append, hc.bytes, take_append_chunkOf]

theorem Context.Collects.appended (hc : c.Collects m i) (hmore : i + 1 < pktCount m.length) :
    (c.appended (chunkOf m i)).Collects m (i + 1) where
  exp := (congrArg (· + 1#2) hc.exp).trans (BitVec.ofNat_add i 1).symm
  len := by
    rw [Context.appended, hc.len, chunkOf_length, chunkLen_of_not_last hmore, Nat.add_one_mul]
  bytes := hc.appended_bytes

theorem Context.Collects.fits (hc : c.Collects m i) (hi : i < pktCount m.length) :
    c.len + (chunkOf m i).length ≤ m.length := by
  rw [hc.len, chunkOf_length]
  exact mul_mtu_add_chunkLen_le hi

end Collects

/-! ### One packet received -/

/-- The key has a context, and it holds the first `i` chunks of message `m`. -/
def State.collects (s : State) (src : Byte) (tag : BitVec 3) (m : List Byte) (i : Nat) : Prop :=
  ∃ k, s.holds k src tag ∧ (s.ctx k).Collects m i

/-- `Accepted src tag m i s t`: from `s` to `t` the first `i` chunks came to be held, with no event. -/
structure Accepted (src : Byte) (tag : BitVec 3) (m : List Byte) (i : Nat) (s t : State) : Prop where
  events : t.events = s.events
  collects : t.collects src tag m i
  others : State.othersKept src tag s t

/-- `Delivered src tag m s t`: from `s` to `t` message `m` was delivered, once, and its context ended. -/
structure Delivered (src : Byte) (tag : BitVec 3) (m : List Byte) (s t : State) : Prop where
  events : t.events = s.events ++ [.deliver src m.length m]
  response : t.response = some ⟨.rxDelivered, BitVec.ofNat 32 m.length⟩
  noContext : t.noContext src tag
  others : State.othersKept src tag s t

section Packet

variable {s t u : State} {dest src : Byte} {tag : BitVec 3} {m : List Byte} {i : Nat}

theorem State.collects.of_ctxs_eq (hs : s.collects src tag m i) (h : t.ctxs = s.ctxs) : t.collects src tag m i := by
  have hctx := State.ctx_eq_of_ctxs_eq h
  have hn := State.nctx_eq_of_ctxs_eq h
  obtain ⟨k, ⟨hk, hkey⟩, hcollects⟩ := hs
  exact ⟨k, ⟨hn ▸ hk, hctx ▸ hkey⟩, hctx ▸ hcollects⟩

/-- A slot written with a context of the key. -/
theorem State.setCtx_collects {k : Nat} {c : Context} (hk : k < s.nctx)
    (hkey : c.valid = true ∧ c.src = src ∧ c.tag = tag) (hc : c.Collects m i) :
    (s.setCtx k c).collects src tag m i := by
  refine ⟨k, ⟨(State.setCtx_nctx s k c).symm ▸ hk, ?_⟩, ?_⟩ <;> rw [State.setCtx_ctx_same c hk]
  · exact hkey
  · exact hc

theorem Delivered.after (htu : Delivered src tag m t u) (hevents : t.events = s.events)
    (hothers : State.othersKept src tag s t) : Delivered src tag m s u where
  events := hevents ▸ htu.events
  response := htu.response
  noContext := htu.noContext
  others := hothers.trans htu.others

/-- A message of one packet (44_reassembly.md R233). -/
theorem receivePacket_only (hs : s.CanReceive dest m) (hone : pktCount m.length = 1) :
    Delivered src tag m s (receivePacket s (packetOf dest src tag m 0)) := by
  have hm : chunkOf m 0 = m := by
    rw [chunkOf_zero, ← hone, take_pktCount_mul_mtu]
  have hdeliver : receivePacket s (packetOf dest src tag m 0) = deliverMessage (s.destroyKey src tag) src m := by
    simp [receivePacket_packetOf src tag m 0 hs.accepts, reassembleFirst, hone, hm]
  rw [hdeliver]
  exact
    { events := by rw [deliverMessage_events, State.destroyKey_events]
      response := rfl
      noContext := State.destroyKey_noContext hs.contexts src tag
      others := State.destroyKey_othersKept }

/-- The first packet of several (44_reassembly.md R233). -/
theorem receivePacket_first (hs : s.CanReceive dest m) (hslot : s.hasSlot src tag) (hmore : 1 < pktCount m.length) :
    Accepted src tag m 1 s (receivePacket s (packetOf dest src tag m 0)) := by
  obtain ⟨k, hk⟩ := hslot.destroyKey_freeSlot hs.contexts
  obtain ⟨hlt, hfree, -⟩ := State.freeSlot_eq_some.mp hk
  have hcollects := Context.ofFirst_collects src tag ((s.destroyKey src tag).ctx k).acc hmore
  have haccept : receivePacket s (packetOf dest src tag m 0) =
      ((s.destroyKey src tag).setCtx k (Context.ofFirst src tag m ((s.destroyKey src tag).ctx k).acc)).respond
        .rxAccepted 0#32 := by
    rw [receivePacket_packetOf src tag m 0 hs.accepts, if_pos rfl, reassembleFirst]
    simp only [packetControl_eom, packetControl_tag, packetControl_seq, decide_eq_true_eq, Nat.zero_add,
      if_neg (Nat.ne_of_lt hmore), hk]
    rfl
  rw [haccept]
  exact
    { events := State.destroyKey_events s src tag
      collects := (State.setCtx_collects hlt ⟨rfl, rfl, rfl⟩ hcollects).of_ctxs_eq rfl
      others := State.destroyKey_othersKept.trans (State.setCtx_othersKept _ (.inl hfree)) }

/-- A later packet is appended to the key's context, and with the last one the bytes go out (44_reassembly.md R234). -/
theorem receivePacket_later {k : Nat} (hs : s.CanReceive dest m) (hk : s.holds k src tag)
    (hc : (s.ctx k).Collects m i) (hpos : i ≠ 0) (hi : i < pktCount m.length) :
    receivePacket s (packetOf dest src tag m i) =
      if i + 1 = pktCount m.length then
        deliverMessage (s.setCtx k { (s.ctx k).appended (chunkOf m i) with valid := false }) src
          (m.take ((i + 1) * Config.mtu))
      else (s.setCtx k ((s.ctx k).appended (chunkOf m i))).respond .rxAccepted 0#32 := by
  have hfit := Nat.le_trans (hc.fits hi) hs.messageFits
  rw [receivePacket_packetOf src tag m i hs.accepts, if_neg hpos, reassembleNext]
  simp only [packetControl_eom, packetControl_tag, packetControl_seq, State.lookup_of_holds hs.contexts hk, hc.exp,
    ne_eq, not_true_eq_false, if_false, if_neg (Nat.not_lt.mpr hfit), decide_eq_true_eq, hc.appended_bytes]

theorem receivePacket_middle (hs : s.CanReceive dest m) (hc : s.collects src tag m i) (hpos : i ≠ 0)
    (hmore : i + 1 < pktCount m.length) :
    Accepted src tag m (i + 1) s (receivePacket s (packetOf dest src tag m i)) := by
  obtain ⟨k, hk, hcollects⟩ := hc
  rw [receivePacket_later hs hk hcollects hpos (Nat.lt_of_succ_lt hmore), if_neg (Nat.ne_of_lt hmore)]
  exact
    { events := rfl
      collects :=
        (State.setCtx_collects (c := (s.ctx k).appended _) hk.1 hk.2 (hcollects.appended hmore)).of_ctxs_eq rfl
      others := State.setCtx_othersKept _ (.inr hk) }

theorem receivePacket_last (hs : s.CanReceive dest m) (hc : s.collects src tag m i) (hpos : i ≠ 0)
    (hlast : i + 1 = pktCount m.length) :
    Delivered src tag m s (receivePacket s (packetOf dest src tag m i)) := by
  obtain ⟨k, hk, hcollects⟩ := hc
  rw [receivePacket_later hs hk hcollects hpos (Nat.lt_of_succ_le hlast.le), if_pos hlast, hlast,
    take_pktCount_mul_mtu]
  exact
    { events := rfl
      response := rfl
      noContext := State.setCtx_noContext hs.contexts hk rfl
      others := State.setCtx_othersKept _ (.inr hk) }

end Packet

/-! ### All packets of a message -/

/-- The packets received one after another, with anything in between that leaves the receiver alone. -/
def receiveRun : List (List Byte) → State → State → Prop
  | [], s, t => t = s
  | f :: fs, s, t => ∃ u, s.sameReceiver u ∧ receiveRun fs (receivePacket u f) t

section Message

variable {s t : State} {dest src : Byte} {tag : BitVec 3} {m : List Byte}

/-- Packets that are not the first, from packet i to the last. -/
theorem receiveRun_later {i k : Nat} (hs : s.CanReceive dest m) (hc : s.collects src tag m i) (hpos : i ≠ 0)
    (hleft : i + (k + 1) = pktCount m.length) (h : receiveRun (packetsFrom dest src tag m i (k + 1)) s t) :
    Delivered src tag m s t := by
  induction k generalizing s i with
  | zero =>
    obtain ⟨u, hsu, rfl⟩ := h
    have ⟨_, _, hctxs, hevents⟩ := hsu
    have hlast := receivePacket_last (hs.of_sameReceiver hsu) (hc.of_ctxs_eq hctxs) hpos hleft
    exact hlast.after hevents (.of_ctxs_eq hctxs)
  | succ k ih =>
    obtain ⟨u, hsu, h⟩ := h
    have ⟨_, _, hctxs, hevents⟩ := hsu
    have hu := hs.of_sameReceiver hsu
    have hmid := receivePacket_middle hu (hc.of_ctxs_eq hctxs) hpos (by omega)
    have hrest := ih (hu.receivePacket _) hmid.collects i.succ_ne_zero (by omega) h
    exact hrest.after (hmid.events.trans hevents) (State.othersKept.trans (.of_ctxs_eq hctxs) hmid.others)

theorem receiveRun_packetsOf (hs : s.CanReceive dest m) (hslot : s.hasSlot src tag)
    (h : receiveRun (packetsOf dest src tag m) s t) : Delivered src tag m s t := by
  obtain ⟨k, hk⟩ := Nat.exists_eq_add_one.mpr (pktCount_pos m.length)
  rw [packetsOf_eq_packetsFrom, hk] at h
  obtain ⟨u, hsu, h⟩ := h
  have ⟨_, _, hctxs, hevents⟩ := hsu
  have hu := hs.of_sameReceiver hsu
  cases k with
  | zero =>
    cases h
    exact (receivePacket_only hu hk).after hevents (.of_ctxs_eq hctxs)
  | succ k =>
    have hfirst := receivePacket_first hu (hslot.of_ctxs_eq hctxs) (by omega)
    have hrest := receiveRun_later (hu.receivePacket _) hfirst.collects Nat.one_ne_zero (by omega) h
    exact hrest.after (hfirst.events.trans hevents) (State.othersKept.trans (.of_ctxs_eq hctxs) hfirst.others)

/-- A state that meets the invariant can receive a message within its limits (00_scope.md R7). -/
theorem State.Inv.canReceive (hs : s.Inv) (haccepts : s.accepts dest = true) (hm : m.length ≤ s.params.maxMsgLen) :
    s.CanReceive dest m :=
  ⟨hs.contextInv, haccepts, hs.mtu_le_maxMsgLen, hm⟩

end Message

/-- The reassembly function given the packets is a run with nothing in between. -/
theorem receiveRun_receiveAll (fs : List (List Byte)) (s : State) : receiveRun fs s (receiveAll s fs) := by
  induction fs generalizing s with
  | nil => rfl
  | cons f fs ih => exact ⟨s, ⟨rfl, rfl, rfl, rfl⟩, ih (receivePacket s f)⟩

/-- Settles O48, by induction on the packets: the context holds the chunks received so far. -/
theorem fragmentsReassembleToTheMessage : Obligations.FragmentsReassembleToTheMessage := by
  intro s dest src tag m hs haccepts hm hslot
  have hd := receiveRun_packetsOf (hs.canReceive haccepts hm) hslot (receiveRun_receiveAll (packetsOf dest src tag m) s)
  exact ⟨hd.events, hd.noContext, hd.others.2⟩

/-! ### Runs of RXPKT (44_reassembly.md R230, R240) -/

section Runs

variable {s t u v : State}

/-- RXPKT of a ready buffer receives the packet that the buffer holds. -/
theorem exec_rxpkt_of_ready {h : Byte} (hr : u.rxReady h) :
    exec (.rxpkt h) u = .next (receivePacket (u.consumed h) (u.rxBytes h)) := by
  obtain ⟨hhdr, hpay⟩ := State.rxBytes_split hr
  rw [receivePacket, ← hhdr, ← hpay]
  exact execRxpkt_ready hr

theorem receivePacket_frame (s : State) (f : List Byte) :
    (receivePacket s f).halted = s.halted ∧ (receivePacket s f).nbuf = s.nbuf := by
  rw [receivePacket, reassemble_frame]
  exact ⟨rfl, rfl⟩

/-- A run of RXPKT, packet by packet. -/
theorem rxRun_cons_iff {f : List Byte} {fs : List (List Byte)} :
    rxRun (f :: fs) s t ↔
      ∃ (u : State) (h : Byte), s.sameReceiver u ∧ u.rxReady h ∧ u.rxBytes h = f ∧
        rxRun fs (receivePacket (u.consumed h) f) t := by
  rw [rxRun_cons]
  constructor
  · rintro ⟨u, v, h, hsu, hr, rfl, hexec, hrun⟩
    rw [exec_rxpkt_of_ready hr] at hexec
    cases hexec
    exact ⟨u, h, hsu, hr, rfl, hrun⟩
  · rintro ⟨u, h, hsu, hr, rfl, hrun⟩
    exact ⟨u, _, h, hsu, hr, rfl, exec_rxpkt_of_ready hr, hrun⟩

theorem receiveRun_of_rxRun {fs : List (List Byte)} (h : rxRun fs s t) : receiveRun fs s t := by
  induction fs generalizing s with
  | nil => exact h
  | cons f fs ih =>
    obtain ⟨u, b, hsu, -, -, hrun⟩ := rxRun_cons_iff.mp h
    exact ⟨u.consumed b, hsu, ih hrun⟩

/-- RXPKT runs on a running engine, and a received packet records no fault. -/
theorem halted_of_rxRun {fs : List (List Byte)} (h : rxRun fs s t) (hs : fs ≠ [] ∨ s.halted = false) :
    t.halted = false := by
  induction fs generalizing s with
  | nil =>
    cases h
    exact hs.resolve_left (absurd rfl)
  | cons f fs ih =>
    obtain ⟨u, b, -, ⟨hrunning, -⟩, -, hrun⟩ := rxRun_cons_iff.mp h
    obtain ⟨hhalted, -⟩ := receivePacket_frame (u.consumed b) f
    exact ih hrun (.inr (hhalted.trans hrunning))

/-! ### A run exists -/

/-- A buffer that CMD filled with the packet `f` from HEADROOM up. -/
def Buffer.holding (p : Config.Params) (f : List Byte) : Buffer :=
  { alloc := true, owner := .cmd, start := p.headroom, hdr := p.headroom, endOff := p.headroom + f.length
    data := (Memory.drawn 0).writeN p.headroom f }

theorem Buffer.holding_windowOk (p : Config.Params) {f : List Byte} (hmin : Config.hdrLen ≤ f.length)
    (hmax : f.length ≤ Config.hdrLen + Config.mtu) : (Buffer.holding p f).windowOk p := by
  intro _
  refine ⟨Nat.le_refl _, rfl, Nat.add_le_add_left hmin _, ?_⟩
  show p.headroom + f.length ≤ p.headroom + Config.hdrLen + Config.mtu + p.tailroom
  omega

/-- Something can bring packet `f` into buffer h and leave the receiver alone. -/
theorem State.ready_exists {h : Byte} {f : List Byte} (hr : s.halted = false) (hh : h.toNat < s.nbuf)
    (hmin : Config.hdrLen ≤ f.length) (hmax : f.length ≤ Config.hdrLen + Config.mtu) :
    ∃ u, s.sameReceiver u ∧ u.rxReady h ∧ u.rxBytes h = f ∧ u.nbuf = s.nbuf := by
  have hbuf := State.setBuf_buf_same (Buffer.holding s.params f) hh
  have hnbuf := State.setBuf_nbuf s h.toNat (Buffer.holding s.params f)
  have hsize : (Buffer.holding s.params f).endOff - (Buffer.holding s.params f).hdr = f.length :=
    Nat.add_sub_cancel_left _ _
  refine ⟨s.setBuf h.toNat (Buffer.holding s.params f), ⟨rfl, rfl, rfl, rfl⟩, ?_, ?_, hnbuf⟩
  · rw [State.rxReady, State.live, hbuf, hnbuf]
    exact ⟨hr, ⟨hh, rfl⟩, rfl, Buffer.holding_windowOk s.params hmin hmax⟩
  · rw [State.rxBytes, hbuf, hsize]
    exact Memory.readN_writeN _ _ f

theorem rxRun_exists {h : Byte} {fs : List (List Byte)} (hr : s.halted = false) (hh : h.toNat < s.nbuf)
    (hfs : ∀ f ∈ fs, Config.hdrLen ≤ f.length ∧ f.length ≤ Config.hdrLen + Config.mtu) : ∃ t, rxRun fs s t := by
  induction fs generalizing s with
  | nil => exact ⟨s, rfl⟩
  | cons f fs ih =>
    obtain ⟨⟨hmin, hmax⟩, hfs⟩ := List.forall_mem_cons.mp hfs
    obtain ⟨u, hsu, hready, hbytes, hnbuf⟩ := State.ready_exists hr hh hmin hmax
    obtain ⟨hhalted, hnbuf'⟩ := receivePacket_frame (u.consumed h) f
    have hconsumed : (u.consumed h).nbuf = u.nbuf := State.setBuf_nbuf u h.toNat _
    obtain ⟨t, ht⟩ := ih (hhalted.trans hready.1) (by rwa [hnbuf', hconsumed, hnbuf]) hfs
    exact ⟨t, rxRun_cons_iff.mpr ⟨u, h, hsu, hready, hbytes, ht⟩⟩

end Runs

theorem packetOf_length (dest src : Byte) (tag : BitVec 3) (m : List Byte) (i : Nat) :
    (packetOf dest src tag m i).length = Config.hdrLen + chunkLen m.length i := by
  rw [packetOf, List.length_append, chunkOf_length]
  rfl

theorem length_of_mem_packetsOf {dest src : Byte} {tag : BitVec 3} {m f : List Byte}
    (hf : f ∈ packetsOf dest src tag m) : Config.hdrLen ≤ f.length ∧ f.length ≤ Config.hdrLen + Config.mtu := by
  rw [packetsOf_eq_packetsFrom, packetsFrom] at hf
  obtain ⟨i, -, rfl⟩ := List.mem_map.mp hf
  rw [packetOf_length]
  exact ⟨Nat.le_add_right _ _, Nat.add_le_add_left (chunkLen_le_mtu _ _) _⟩

theorem packetsOf_ne_nil (dest src : Byte) (tag : BitVec 3) (m : List Byte) : packetsOf dest src tag m ≠ [] :=
  List.ne_nil_of_length_pos (by rw [packetsOf_length]; exact pktCount_pos m.length)

/-- Every buffer's handle fits the command word, since NBUF ≤ 256 (00_scope.md R7). -/
theorem State.Inv.handle_toNat {s : State} (hs : s.Inv) {h : Nat} (hh : h < s.nbuf) :
    (BitVec.ofNat 8 h).toNat = h := by
  obtain ⟨⟨-, hmax, -⟩, ⟨hlen, -⟩, -⟩ := hs
  have hcount : s.nbuf = s.params.nbuf := hlen
  rw [BitVec.toNat_ofNat]
  exact Nat.mod_eq_of_lt (by omega)

/-- Settles O55: a run of RXPKT is a run of the reassembly function; and a run is built by filling the free buffer with one
packet after another. -/
theorem receivedPacketsDeliverTheMessage : Obligations.ReceivedPacketsDeliverTheMessage := by
  intro s dest src tag m hs haccepts hm hslot
  refine ⟨fun t hrun => ?_, fun hr ⟨h, hh, _⟩ => ?_⟩
  · have hd := receiveRun_packetsOf (hs.canReceive haccepts hm) hslot (receiveRun_of_rxRun hrun)
    have hrunning := halted_of_rxRun hrun (.inl (packetsOf_ne_nil dest src tag m))
    exact ⟨hd.events, hd.response, hrunning, hd.noContext, hd.others.2⟩
  · have hhandle := hs.handle_toNat hh
    exact rxRun_exists (h := BitVec.ofNat 8 h) hr (hhandle.symm ▸ hh) fun _ => length_of_mem_packetsOf

end Sys2Proof.Machine
end

section
/-! PROOF. RXPKT (44_reassembly.md R230 to R235, R239): each outcome of the acceptance filters and of the two reassembly
paths as an equation, and from them what a packet answers and what a dropped one logs. -/

namespace Sys2Proof.Machine

/-! ### RXPKT, from the handle to `Reassemble` (44_reassembly.md R230) -/

section Rxpkt

variable {s t : State} {h : Byte}

theorem execRxpkt_of_txeng (hr : s.halted = false) (hl : s.live h) (ho : (s.buf h.toNat).owner = .txeng) :
    execRxpkt h s = .next (s.raise Opcode.rxpkt.code .owned h) := by
  rw [execRxpkt, withOwnHandle_live hr hl, if_pos ho]

theorem execRxpkt_next_of_cmd (hr : s.halted = false) (hl : s.live h) (ho : (s.buf h.toNat).owner = .cmd)
    (heq : execRxpkt h s = .next t) : t = reassemble (s.consumed h) (s.rxHeader h) (s.rxPayload h) := by
  rw [execRxpkt, withOwnHandle_live hr hl, if_neg (by rw [ho]; decide)] at heq
  split at heq
  · next hb pay hhdr hpay =>
    cases heq
    rw [← State.arenaReadN_some hhdr, ← State.arenaReadN_some hpay]
    rfl
  · cases heq

/-- An RXPKT that answers was turned away while halted, recorded a fault, or gave its packet to `Reassemble`. -/
theorem execRxpkt_next (heq : execRxpkt h s = .next t) :
    t = s.respond .faulted 0#32 ∨ (∃ c, t = s.raise Opcode.rxpkt.code c h) ∨
      t = reassemble (s.consumed h) (s.rxHeader h) (s.rxPayload h) := by
  obtain ⟨k, hguard⟩ := exec_eq_withHandle (i := .rxpkt h) rfl s
  have hanswer : withHandle s .rxpkt h k = .next t := hguard.symm.trans heq
  obtain ⟨-, e⟩ | ⟨-, -, e⟩ | ⟨-, -, -, e⟩ | ⟨hr, hl, -⟩ := withHandle_cases s .rxpkt h k
  · cases e.symm.trans hanswer
    exact .inl rfl
  · cases e.symm.trans hanswer
    exact .inr (.inl ⟨.badHandle, rfl⟩)
  · cases e.symm.trans hanswer
    exact .inr (.inl ⟨.notAllocated, rfl⟩)
  · cases ho : (s.buf h.toNat).owner with
    | txeng =>
      cases (execRxpkt_of_txeng hr hl ho).symm.trans heq
      exact .inr (.inl ⟨.owned, rfl⟩)
    | cmd => exact .inr (.inr (execRxpkt_next_of_cmd hr hl ho heq))

end Rxpkt

/-! ### The acceptance filters (44_reassembly.md R231, R232) -/

section Filters

variable {s : State} {hd : Header} {pay : List Byte}

theorem State.accepts_iff {dest : Byte} :
    s.accepts dest = true ↔ s.cfg.bound = true ∧ (dest = s.cfg.localEid ∨ dest ∈ s.params.acceptExtra) := by
  simp [State.accepts]

/-- The version check compares the whole version byte (42_codec.md R171). -/
theorem State.rxHeader_ok {h : Byte} : (s.rxHeader h).ok = true ↔ (s.rxHeader h).ver = 0x01#8 := beq_iff_eq

theorem reassemble_of_version (hver : hd.ok = false) :
    reassemble s hd pay = dropPacket s .rxDropVersion hd.src hd.ctl.tag := by
  simp [reassemble, hver]

theorem reassemble_of_route (hver : hd.ok = true) (hroute : s.accepts hd.dest = false) :
    reassemble s hd pay = dropPacket s .rxDropRoute hd.src hd.ctl.tag := by
  simp [reassemble, hver, hroute]

theorem reassemble_of_length (hver : hd.ok = true) (hroute : s.accepts hd.dest = true)
    (hlen : Config.mtu < pay.length) : reassemble s hd pay = dropPacket s .rxDropLength hd.src hd.ctl.tag := by
  simp [reassemble, hver, hroute, hlen]

end Filters

/-- Settles O43, filter by filter: what passes one is what the next one looks at. -/
theorem rxFiltersDropAndLog : Obligations.RxFiltersDropAndLog := by
  intro s h reason hready hfails
  refine (execRxpkt_ready hready).trans ?_
  obtain ⟨hver, rfl⟩ | ⟨hver, hroute, rfl⟩ | ⟨hver, hbound, hdest, hlen, rfl⟩ := hfails
  · have hver := mt State.rxHeader_ok.mp hver
    rw [reassemble_of_version (Bool.eq_false_of_not_eq_true hver)]
    rfl
  · have hroute := mt (State.accepts_iff (s := s.consumed h)).mp hroute
    rw [reassemble_of_route (State.rxHeader_ok.mpr hver) (Bool.eq_false_of_not_eq_true hroute)]
    rfl
  · have hroute := (State.accepts_iff (s := s.consumed h)).mpr ⟨hbound, hdest⟩
    rw [reassemble_of_length (State.rxHeader_ok.mpr hver) hroute hlen]
    rfl

/-! ### A first packet (44_reassembly.md R233) -/

/-- The context that a first packet opens in a slot whose accumulator is `mem`. -/
def Context.opened (src : Byte) (ctl : Control) (pay : List Byte) (mem : Memory) : Context :=
  { valid := true, src := src, tag := ctl.tag, exp := ctl.seq + 1#2, len := pay.length, acc := mem.writeN 0 pay }

section First

variable {s : State} {src : Byte} {ctl : Control} {pay : List Byte}

theorem reassembleFirst_of_eom (heom : ctl.eom = true) :
    reassembleFirst s src ctl pay = deliverMessage (s.destroyKey src ctl.tag) src pay := by
  simp [reassembleFirst, heom]

theorem reassembleFirst_of_full (heom : ctl.eom = false) (hfull : (s.destroyKey src ctl.tag).freeSlot = none) :
    reassembleFirst s src ctl pay = dropPacket (s.destroyKey src ctl.tag) .rxDropNoSlot src ctl.tag := by
  simp [reassembleFirst, heom, hfull]

theorem reassembleFirst_of_slot {k : Nat} (heom : ctl.eom = false)
    (hfree : (s.destroyKey src ctl.tag).freeSlot = some k) :
    reassembleFirst s src ctl pay =
      ((s.destroyKey src ctl.tag).setCtx k
        (Context.opened src ctl pay ((s.destroyKey src ctl.tag).ctx k).acc)).respond .rxAccepted 0#32 := by
  simp [reassembleFirst, heom, hfree, Context.opened]

end First

/-! ### A later packet (44_reassembly.md R234) -/

/-- The context after a later packet: with EOM it ends. -/
def Context.extended (c : Context) (ctl : Control) (pay : List Byte) : Context :=
  { c.appended pay with valid := !ctl.eom }

section Next

variable {s : State} {src : Byte} {ctl : Control} {pay : List Byte} {k : Nat}

theorem reassembleNext_of_noContext (hnone : s.lookup src ctl.tag = none) :
    reassembleNext s src ctl pay = dropPacket s .rxDropNoCtx src ctl.tag := by
  simp [reassembleNext, hnone]

theorem reassembleNext_of_seq (hk : s.lookup src ctl.tag = some k) (hseq : ctl.seq ≠ (s.ctx k).exp) :
    reassembleNext s src ctl pay = dropPacket (s.destroyCtx k) .rxDropSeq src ctl.tag := by
  simp [reassembleNext, hk, hseq]

theorem reassembleNext_of_overflow (hk : s.lookup src ctl.tag = some k) (hseq : ctl.seq = (s.ctx k).exp)
    (hover : s.params.maxMsgLen < (s.ctx k).len + pay.length) :
    reassembleNext s src ctl pay = dropPacket (s.destroyCtx k) .rxDropOverflow src ctl.tag := by
  simp [reassembleNext, hk, hseq, hover]

theorem reassembleNext_of_more (hk : s.lookup src ctl.tag = some k) (hseq : ctl.seq = (s.ctx k).exp)
    (hfit : (s.ctx k).len + pay.length ≤ s.params.maxMsgLen) (heom : ctl.eom = false) :
    reassembleNext s src ctl pay = (s.setCtx k ((s.ctx k).extended ctl pay)).respond .rxAccepted 0#32 := by
  obtain ⟨-, hvalid, -, -⟩ := State.lookup_some hk
  simp [reassembleNext, hk, hseq, Nat.not_lt.mpr hfit, heom, Context.extended, Context.appended, hvalid]

/-- The bytes that go out are those of the earlier packets and the last one's. -/
theorem reassembleNext_of_last (hk : s.lookup src ctl.tag = some k) (hseq : ctl.seq = (s.ctx k).exp)
    (hfit : (s.ctx k).len + pay.length ≤ s.params.maxMsgLen) (heom : ctl.eom = true) :
    reassembleNext s src ctl pay =
      deliverMessage (s.setCtx k ((s.ctx k).extended ctl pay)) src
        ((s.ctx k).acc.readN 0 (s.ctx k).len ++ pay) := by
  simp [reassembleNext, hk, hseq, Nat.not_lt.mpr hfit, heom, Context.extended, Context.appended,
    Memory.readN_writeN_append]

theorem reassembleNext_ctxs_of_fits (hk : s.lookup src ctl.tag = some k) (hseq : ctl.seq = (s.ctx k).exp)
    (hfit : (s.ctx k).len + pay.length ≤ s.params.maxMsgLen) :
    (reassembleNext s src ctl pay).ctxs = (s.setCtx k ((s.ctx k).extended ctl pay)).ctxs := by
  cases heom : ctl.eom with
  | false => rw [reassembleNext_of_more hk hseq hfit heom]; rfl
  | true => rw [reassembleNext_of_last hk hseq hfit heom]; rfl

end Next

/-! ### What a packet answers and logs (44_reassembly.md R235, R239) -/

/-- `PacketOutcome src tag u t`: `t` is `u` with the packet of the key (src, tag) accepted, dropped with a drop's status and
one LOG of that key, or delivered. -/
inductive PacketOutcome (src : Byte) (tag : BitVec 3) (u : State) : State → Prop where
  | accepted : PacketOutcome src tag u (u.respond .rxAccepted 0#32)
  | dropped (reason : Status) (hdrop : reason.isDrop = true) : PacketOutcome src tag u (dropPacket u reason src tag)
  | delivered (bytes : List Byte) : PacketOutcome src tag u (deliverMessage u src bytes)

/-- `s.answersPacket src tag t`: from `s` to `t` a packet of the key (src, tag) was answered, after contexts changed. -/
def State.answersPacket (s : State) (src : Byte) (tag : BitVec 3) (t : State) : Prop :=
  ∃ u, u.events = s.events ∧ PacketOutcome src tag u t

section Outcome

variable {s t : State} {src : Byte} {tag : BitVec 3}

theorem reassembleFirst_answersPacket (s : State) (src : Byte) (ctl : Control) (pay : List Byte) :
    s.answersPacket src ctl.tag (reassembleFirst s src ctl pay) := by
  have hevents := State.destroyKey_events s src ctl.tag
  cases heom : ctl.eom with
  | true => exact ⟨_, hevents, reassembleFirst_of_eom heom ▸ .delivered pay⟩
  | false =>
    cases hfree : (s.destroyKey src ctl.tag).freeSlot with
    | none => exact ⟨_, hevents, reassembleFirst_of_full heom hfree ▸ .dropped .rxDropNoSlot rfl⟩
    | some k =>
      rw [reassembleFirst_of_slot heom hfree]
      exact ⟨(s.destroyKey src ctl.tag).setCtx k _, hevents, .accepted⟩

theorem reassembleNext_answersPacket (s : State) (src : Byte) (ctl : Control) (pay : List Byte) :
    s.answersPacket src ctl.tag (reassembleNext s src ctl pay) := by
  cases hk : s.lookup src ctl.tag with
  | none => exact ⟨s, rfl, reassembleNext_of_noContext hk ▸ .dropped .rxDropNoCtx rfl⟩
  | some k =>
    by_cases hseq : ctl.seq = (s.ctx k).exp
    · by_cases hfit : (s.ctx k).len + pay.length ≤ s.params.maxMsgLen
      · refine ⟨s.setCtx k ((s.ctx k).extended ctl pay), rfl, ?_⟩
        cases heom : ctl.eom with
        | false => exact reassembleNext_of_more hk hseq hfit heom ▸ .accepted
        | true => exact reassembleNext_of_last hk hseq hfit heom ▸ .delivered _
      · have hover := Nat.lt_of_not_le hfit
        exact ⟨s.destroyCtx k, rfl, reassembleNext_of_overflow hk hseq hover ▸ .dropped .rxDropOverflow rfl⟩
    · exact ⟨s.destroyCtx k, rfl, reassembleNext_of_seq hk hseq ▸ .dropped .rxDropSeq rfl⟩

theorem reassemble_answersPacket (s : State) (hd : Header) (pay : List Byte) :
    s.answersPacket hd.src hd.ctl.tag (reassemble s hd pay) := by
  cases hver : hd.ok with
  | false => exact ⟨s, rfl, reassemble_of_version hver ▸ .dropped .rxDropVersion rfl⟩
  | true =>
    cases hroute : s.accepts hd.dest with
    | false => exact ⟨s, rfl, reassemble_of_route hver hroute ▸ .dropped .rxDropRoute rfl⟩
    | true =>
      by_cases hlen : pay.length ≤ Config.mtu
      · rw [reassemble_passes hver hroute hlen]
        split
        · exact reassembleFirst_answersPacket s hd.src hd.ctl pay
        · exact reassembleNext_answersPacket s hd.src hd.ctl pay
      · exact ⟨s, rfl, reassemble_of_length hver hroute (Nat.lt_of_not_le hlen) ▸ .dropped .rxDropLength rfl⟩

/-- The status is one of the receive outcomes (44_reassembly.md R230). -/
theorem State.answersPacket.response (h : s.answersPacket src tag t) :
    ∃ st data, t.response = some ⟨st, data⟩ ∧ (st = .rxAccepted ∨ st = .rxDelivered ∨ st.isDrop = true) := by
  obtain ⟨u, -, hout⟩ := h
  cases hout with
  | accepted => exact ⟨_, _, rfl, .inl rfl⟩
  | dropped reason hdrop => exact ⟨reason, _, rfl, .inr (.inr hdrop)⟩
  | delivered => exact ⟨_, _, rfl, .inr (.inl rfl)⟩

/-- From `s` to `t` a response was given: with a drop's status and one LOG of that status and the key (src, tag), or with
another status and no LOG. -/
def State.logsOnlyDrops (s : State) (src : Byte) (tag : BitVec 3) (t : State) : Prop :=
  ∃ st data, t.response = some ⟨st, data⟩ ∧
    (st.isDrop = true → t.events = s.events ++ [.log st src tag]) ∧
    (st.isDrop = false →
      ∃ es : List Event, t.events = s.events ++ es ∧ ∀ reason src' tag', Event.log reason src' tag' ∉ es)

theorem State.logsOnlyDrops.of_silent {st : Status} {data : Word32} (hst : st.isDrop = false)
    (hresponse : t.response = some ⟨st, data⟩) (hevents : t.events = s.events) : s.logsOnlyDrops src tag t :=
  ⟨st, data, hresponse, fun hdrop => absurd hdrop (by simp [hst]), fun _ =>
    ⟨[], by rw [hevents, List.append_nil], nofun⟩⟩

theorem State.answersPacket.logsOnlyDrops (h : s.answersPacket src tag t) : s.logsOnlyDrops src tag t := by
  obtain ⟨u, hevents, hout⟩ := h
  cases hout with
  | accepted => exact .of_silent (st := .rxAccepted) rfl rfl hevents
  | dropped reason hdrop =>
    exact ⟨reason, _, rfl, fun _ => congrArg (· ++ _) hevents, fun hno => absurd hdrop (by simp [hno])⟩
  | delivered bytes =>
    refine ⟨.rxDelivered, _, rfl, nofun, fun _ => ⟨[.deliver src bytes.length bytes], congrArg (· ++ _) hevents, ?_⟩⟩
    exact fun _ _ _ hmem => nomatch List.mem_singleton.mp hmem

end Outcome

/-- Settles O42: `Reassemble` writes the contexts, the events and the response, and its response is a receive outcome. -/
theorem rxpktConsumesEveryPacket : Obligations.RxpktConsumesEveryPacket := by
  intro s h hr
  refine ⟨handleCommandsCheckTheHandle (.rxpkt h) h s rfl hr, fun hl ho => execRxpkt_of_txeng hr hl ho,
    fun hready => ?_⟩
  obtain ⟨st, data, hresponse, hst⟩ :=
    (reassemble_answersPacket (s.consumed h) (s.rxHeader h) (s.rxPayload h)).response
  refine ⟨_, st, data, execRxpkt_ready hready, ?_, hst⟩
  rw [← hresponse]
  exact reassemble_frame (s.consumed h) (s.rxHeader h) (s.rxPayload h)

/-- Settles O46: only `Reassemble` emits, and a drop is the one outcome of it with a LOG. -/
theorem everyDropIsLoggedOnce : Obligations.EveryDropIsLoggedOnce := by
  intro s t h st data heq hresponse
  have hlogs : s.logsOnlyDrops (s.rxHeader h).src (s.rxHeader h).ctl.tag t := by
    obtain rfl | ⟨c, rfl⟩ | rfl := execRxpkt_next heq
    · exact .of_silent (st := .faulted) rfl rfl rfl
    · exact .of_silent (st := .fault) rfl rfl rfl
    · exact (reassemble_answersPacket (s.consumed h) (s.rxHeader h) (s.rxPayload h)).logsOnlyDrops
  obtain ⟨st', data', hresponse', hdrop, hother⟩ := hlogs
  cases hresponse.symm.trans hresponse'
  exact ⟨hdrop, hother⟩

end Sys2Proof.Machine
end

section
/-! PROOF. The contexts after a packet that passed the filters (44_reassembly.md R233, R234): slot by slot, what destroying a
key's context, opening one and extending one leaves. -/

namespace Sys2Proof.Machine

/-! ### The slots once a key's context is destroyed (44_reassembly.md R233) -/

section DestroyKey

variable {s : State} {src : Byte} {tag : BitVec 3} {k : Nat}

theorem State.destroyKey_frame (s : State) (src : Byte) (tag : BitVec 3) :
    s.destroyKey src tag = { s with ctxs := (s.destroyKey src tag).ctxs } := by
  unfold State.destroyKey
  split <;> rfl

theorem State.destroyKey_ctx_of_holds (hs : s.contextInv) (hk : s.holds k src tag) :
    (s.destroyKey src tag).ctx k = { s.ctx k with valid := false } := by
  rw [State.destroyKey_of_holds hs hk, State.destroyCtx, State.setCtx_ctx_same _ hk.1]

theorem State.destroyKey_ctx_of_not_holds (hk : ¬s.holds k src tag) : (s.destroyKey src tag).ctx k = s.ctx k := by
  unfold State.destroyKey
  split
  · rfl
  · next j hj =>
    refine State.setCtx_ctx_other s _ ?_
    rintro rfl
    exact hk (State.lookup_some hj)

theorem State.destroyKey_ctx_acc (hs : s.contextInv) : ((s.destroyKey src tag).ctx k).acc = (s.ctx k).acc := by
  by_cases hk : s.holds k src tag
  · rw [State.destroyKey_ctx_of_holds hs hk]
  · rw [State.destroyKey_ctx_of_not_holds hk]

/-- Where every slot is live and none holds the key, destroying it frees none. -/
theorem State.destroyKey_full (hfull : ∀ k < s.nctx, (s.ctx k).valid = true ∧ ¬s.holds k src tag) :
    s.destroyKey src tag = s ∧ s.freeSlot = none :=
  ⟨State.destroyKey_of_noContext fun k hk => (hfull k hk).2, State.freeSlot_eq_none.mpr fun k hk => (hfull k hk).1⟩

/-- The lowest slot that is free or the key's own is the lowest free one once the key's context is destroyed. -/
theorem State.destroyKey_freeSlot_eq_some (hs : s.contextInv) (hk : k < s.nctx)
    (hslot : (s.ctx k).valid = false ∨ s.holds k src tag)
    (hlowest : ∀ j < k, (s.ctx j).valid = true ∧ ¬s.holds j src tag) :
    (s.destroyKey src tag).freeSlot = some k := by
  refine State.freeSlot_eq_some.mpr ⟨(State.destroyKey_nctx s src tag).symm ▸ hk, ?_, fun j hj => ?_⟩
  · by_cases hkey : s.holds k src tag
    · rw [State.destroyKey_ctx_of_holds hs hkey]
    · rw [State.destroyKey_ctx_of_not_holds hkey]
      exact hslot.resolve_right hkey
  · obtain ⟨hvalid, hother⟩ := hlowest j hj
    rwa [State.destroyKey_ctx_of_not_holds hother]

end DestroyKey

/-! ### The slots once a context is extended (44_reassembly.md R234) -/

section Extended

variable {s t : State} {k : Nat}

/-- The slots of a state whose contexts are those of `s` with slot k written. -/
theorem State.slots_of_setCtx {c : Context} (hk : k < s.nctx) (ht : t.ctxs = (s.setCtx k c).ctxs) :
    t.nctx = s.nctx ∧ t.ctx k = c ∧ ∀ j, j ≠ k → t.ctx j = s.ctx j := by
  rw [State.nctx_eq_of_ctxs_eq ht, State.ctx_eq_of_ctxs_eq ht]
  exact ⟨State.setCtx_nctx s k c, State.setCtx_ctx_same c hk, fun _ hne => State.setCtx_ctx_other s c hne⟩

theorem Context.extended_eq {c : Context} {src : Byte} {ctl : Control} (hkey : c.src = src ∧ c.tag = ctl.tag)
    (pay : List Byte) :
    c.extended ctl pay =
      { valid := !ctl.eom, src := src, tag := ctl.tag, exp := c.exp + 1#2, len := c.len + pay.length,
        acc := c.acc.writeN c.len pay } := by
  obtain ⟨rfl, htag⟩ := hkey
  rw [← htag]
  rfl

end Extended

/-! ### RXPKT of a packet that passes the filters (44_reassembly.md R233, R234) -/

section Passes

variable {s : State} {h src : Byte} {c : Control} {pay : List Byte}

@[simp] theorem State.consumed_ctx (s : State) (h : Byte) (k : Nat) : (s.consumed h).ctx k = s.ctx k := rfl

theorem exec_rxpkt_of_passes (hp : s.rxPasses h) (hsrc : (s.rxHeader h).src = src) (hctl : (s.rxHeader h).ctl = c)
    (hpay : s.rxPayload h = pay) :
    exec (.rxpkt h) s =
      .next (if c.som then reassembleFirst (s.consumed h) src c pay else reassembleNext (s.consumed h) src c pay) := by
  obtain ⟨hready, hver, hroute, hlen⟩ := hp
  refine (execRxpkt_ready hready).trans ?_
  rw [reassemble_passes (s := s.consumed h) hver hroute hlen, hsrc, hctl, hpay]

end Passes

/-- Settles O44, by EOM and by the slot that is free once the key's context is destroyed. -/
theorem rxFirstPacketStartsAContext : Obligations.RxFirstPacketStartsAContext := by
  intro s h src c pay hp hs hsrc hctl hpay hsom
  have hexec := exec_rxpkt_of_passes hp hsrc hctl hpay
  rw [hsom, if_pos rfl] at hexec
  rw [hexec]
  have hs : (s.consumed h).contextInv := hs
  refine ⟨fun heom => ?_, fun heom hfull => ?_, fun k hk heom hslot hlowest => ?_⟩
  · rw [reassembleFirst_of_eom heom]
    refine ⟨_, rfl, ?_, State.destroyKey_nctx _ _ _, fun k _ => ⟨fun hkey => ?_, fun hother => ?_⟩⟩
    · rw [State.destroyKey_frame]
      rfl
    · exact State.destroyKey_ctx_of_holds hs hkey
    · exact State.destroyKey_ctx_of_not_holds (s := s.consumed h) hother
  · obtain ⟨hsame, hnone⟩ := State.destroyKey_full (s := s.consumed h) hfull
    rw [reassembleFirst_of_full heom (hsame.symm ▸ hnone), hsame]
    rfl
  · have hfree := State.destroyKey_freeSlot_eq_some hs hk hslot hlowest
    obtain ⟨hlt, -, -⟩ := State.freeSlot_eq_some.mp hfree
    rw [reassembleFirst_of_slot heom hfree]
    refine ⟨_, rfl, ?_, (State.setCtx_nctx _ _ _).trans (State.destroyKey_nctx _ _ _), ?_⟩
    · rw [State.destroyKey_frame]
      rfl
    rw [State.respond_ctx, State.setCtx_ctx_same _ hlt, State.destroyKey_ctx_acc hs]
    refine ⟨rfl, fun j hj => ?_, fun j hj => ?_, fun j _ hne => ?_⟩
    · exact (congrArg _ (Nat.zero_add j).symm).trans (Memory.read_writeN _ 0 j pay hj)
    · exact Memory.read_writeN_other _ 0 j pay (.inr ((Nat.zero_add _).symm ▸ hj))
    · rw [State.respond_ctx, State.setCtx_ctx_other _ _ hne]
      exact ⟨State.destroyKey_ctx_of_holds hs, State.destroyKey_ctx_of_not_holds (s := s.consumed h)⟩

/-- Settles O45, by what Lookup finds, then SEQ, then the length. -/
theorem rxNextPacketExtendsItsContext : Obligations.RxNextPacketExtendsItsContext := by
  intro s h src c pay hp hs hsrc hctl hpay hsom
  have hexec := exec_rxpkt_of_passes hp hsrc hctl hpay
  rw [hsom, if_neg Bool.false_ne_true] at hexec
  rw [hexec]
  have hlookup : ∀ k, s.holds k src c.tag → (s.consumed h).lookup src c.tag = some k := fun k hk =>
    State.lookup_of_holds hs hk
  refine ⟨fun hnone => ?_, fun k reason hk hdrop => ?_, fun k hk hseq hfit => ?_⟩
  · rw [reassembleNext_of_noContext (s := s.consumed h) (State.lookup_eq_none.mpr hnone)]
    rfl
  · obtain ⟨hseq, rfl⟩ | ⟨hseq, hover, rfl⟩ := hdrop
    · rw [reassembleNext_of_seq (hlookup k hk) hseq]
      rfl
    · rw [reassembleNext_of_overflow (hlookup k hk) hseq hover]
      rfl
  · have hfound := hlookup k hk
    have hctxs := reassembleNext_ctxs_of_fits hfound hseq hfit
    obtain ⟨hlt, -, hkey⟩ := hk
    obtain ⟨hnctx, hslot, hothers⟩ := State.slots_of_setCtx (s := s.consumed h) hlt hctxs
    rw [State.consumed_ctx, Context.extended_eq hkey] at hslot
    refine ⟨_, rfl, fun heom => ?_, fun heom => ?_, hnctx, ?_⟩
    · rw [reassembleNext_of_more hfound hseq hfit heom]
      rfl
    · rw [reassembleNext_of_last hfound hseq hfit heom]
      simp only [deliverMessage, List.length_append, Memory.readN_length]
      rfl
    · rw [hslot]
      exact ⟨rfl, fun j hj => Memory.read_writeN _ _ j pay hj,
        fun j hj => Memory.read_writeN_other _ _ j pay hj, hothers⟩

end Sys2Proof.Machine
end

section
/-! PROOF. Who else changes a context (44_reassembly.md R237, R238): CTXFLUSH does, and beside it and RXPKT no command, no turn
of the TX engine and no step but reset. -/

namespace Sys2Proof.Machine

/-! ### CTXFLUSH (44_reassembly.md R238) -/

section Flush

variable {s : State} (hr : s.halted = false)
include hr

theorem execCtxflush_key_of_none {src : Byte} {tag : BitVec 3} (hnone : s.lookup src tag = none) :
    execCtxflush (.key src tag) s = .next (s.respond .ok 0#32) := by
  simp only [execCtxflush, whenRunning_of_running hr, hnone]

theorem execCtxflush_key_of_some {src : Byte} {tag : BitVec 3} {k : Nat} (hk : s.lookup src tag = some k) :
    execCtxflush (.key src tag) s = .next ((s.destroyCtx k).respond .ok 1#32) := by
  simp only [execCtxflush, whenRunning_of_running hr, hk]

theorem execCtxflush_all :
    execCtxflush .all s =
      .next (({ s with ctxs := s.ctxs.map (fun c => { c with valid := false }) } : State).respond .ok
        (BitVec.ofNat 32 s.liveContexts)) := by
  rw [execCtxflush, whenRunning_of_running hr]

end Flush

theorem State.ctxs_eq_map_ctx (s : State) : s.ctxs = (List.range s.nctx).map s.ctx :=
  List.ext_getElem (by simp [State.nctx]) fun k hk _ => by simp [State.ctx_of_lt hk]

/-- The live contexts, counted slot by slot (10_state.md R28). -/
theorem State.liveContexts_eq (s : State) :
    s.liveContexts = ((List.range s.nctx).filter (fun k => (s.ctx k).valid)).length := by
  rw [State.liveContexts, State.ctxs_eq_map_ctx, List.countP_map, List.countP_eq_length_filter]
  rfl

theorem State.withCtxs_map_ctx (s : State) (f : Context → Context) {k : Nat} (hk : k < s.nctx) :
    ({ s with ctxs := s.ctxs.map f } : State).ctx k = f (s.ctx k) := by
  have hk' : k < s.ctxs.length := hk
  simp [State.ctx, hk']

/-- Settles O47, by what Lookup finds; CTXFLUSH of all writes every slot's valid bit. -/
theorem ctxflushDestroysContexts : Obligations.CtxflushDestroysContexts := by
  intro s hr
  refine ⟨fun src tag hnone => execCtxflush_key_of_none hr (State.lookup_eq_none.mpr hnone),
    fun src tag k hs hk => execCtxflush_key_of_some hr (State.lookup_of_holds hs hk),
    _, execCtxflush_all hr, ?_, List.length_map _, fun k hk => State.withCtxs_map_ctx s _ hk⟩
  rw [← State.liveContexts_eq]
  rfl

/-! ### What leaves the contexts alone (44_reassembly.md R237) -/

section Kept

variable {s t : State}

@[simp] theorem State.finish_ctxs (s : State) (code : Status) : (s.finish code).ctxs = s.ctxs := by
  rw [State.finish_frame]

theorem CommandEffect.ctxs {i : Instr} (h : CommandEffect i s t) (hrx : ∀ b, i ≠ .rxpkt b)
    (hflush : ∀ sel, i ≠ .ctxflush sel) : t.ctxs = s.ctxs := by
  cases h with
  | received => exact absurd rfl (hrx _)
  | flushedAll | flushedKey => exact absurd rfl (hflush _)
  | sendFailed => exact State.finish_ctxs s.retirePacket .errBinding
  | messageSent => exact State.finish_ctxs s.ackPacket .ok
  | wroteCfg =>
    unfold writeCfg
    split <;> rfl
  | _ => rfl

theorem TurnEffect.ctxs (h : TurnEffect s t) : t.ctxs = s.ctxs := by
  cases h with
  | nothing => rfl
  | ended code => exact State.finish_ctxs s code
  | sent b _ _ _ hsend =>
    obtain ⟨_, _, u, hw, rfl⟩ := sendPacket_next hsend
    obtain ⟨-, rfl⟩ := State.arenaWriteN_some hw
    rfl

theorem StepEffect.ctxs (h : StepEffect s t) (hreset : ∀ rest, s.inputs ≠ .reset :: rest)
    (hother : ∀ words rest, s.inputs = .command words :: rest →
      (∀ b, decode words ≠ .ok (.rxpkt b)) ∧ ∀ sel, decode words ≠ .ok (.ctxflush sel)) : t.ctxs = s.ctxs := by
  cases h with
  | idle | turnedAway | undecodable => rfl
  | command words rest i _ hin hdec he =>
    obtain ⟨hrx, hflush⟩ := hother words rest hin
    exact he.ctxs (fun b hi => hrx b (hi ▸ hdec)) fun sel hi => hflush sel (hi ▸ hdec)
  | turn _ _ _ he => exact he.ctxs
  | reset rest hin => exact absurd hin (hreset rest)

end Kept

/-- Settles O23, by the cases of what a command, the TX engine's turn and a step can do. -/
theorem contextsChangeOnlyByReceiveAndFlush : Obligations.ContextsChangeOnlyByReceiveAndFlush :=
  ⟨fun _ _ _ hrx hflush h => (exec_effect h).ctxs hrx hflush, fun _ _ h => (txEngineStep_effect h).ctxs,
    fun _ _ hreset hother h => (step_effect h).ctxs hreset hother⟩

end Sys2Proof.Machine
end

section
/-! PROOF. The control commands (45_control.md R270 to R276): NOP, the value of each CSR, what CSRW writes, and that nothing
but CSRW writes CFG or GATE. -/

namespace Sys2Proof.Machine

/-- Settles O49: a running engine executes NOP. -/
theorem nopChangesNothing : Obligations.NopChangesNothing := fun _ hr => whenRunning_of_running hr

/-! ### The fields of the CSRs as the state has them (10_state.md R24 to R28) -/

theorem GatePolicy.bit_eq (p : GatePolicy) : p.bit = decide (p = .block) := by
  cases p <;> rfl

theorem State.held_eq (s : State) :
    s.held = decide (s.tx.phase = .next ∧ s.gate = false ∧ s.cfg.gatePolicy = .block) := by
  simp [State.held, Bool.and_assoc]

theorem State.bufs_eq_map_buf (s : State) : s.bufs = (List.range s.nbuf).map s.buf :=
  List.ext_getElem (by simp [State.nbuf]) fun h hh _ => by simp [State.buf_of_lt hh]

/-- The free buffers, counted handle by handle (10_state.md R28). -/
theorem State.freeCount_eq (s : State) :
    s.freeCount = ((List.range s.nbuf).filter (fun h => !(s.buf h).alloc)).length := by
  rw [State.freeCount, State.bufs_eq_map_buf, List.countP_map, List.countP_eq_length_filter]
  rfl

theorem State.csrCfg_eq (s : State) :
    s.csrCfg =
      0#22 ++ BitVec.ofBool (decide (s.cfg.gatePolicy = .block)) ++ BitVec.ofBool s.cfg.bound ++ s.cfg.localEid := by
  rw [State.csrCfg, GatePolicy.bit_eq]

theorem State.csrTxStat_eq (s : State) :
    s.csrTxStat = BitVec.ofNat 16 s.tx.i ++ s.tx.code.code ++ 0#5 ++
      BitVec.ofBool (decide (s.tx.phase = .next ∧ s.gate = false ∧ s.cfg.gatePolicy = .block)) ++
      BitVec.ofBool (decide (s.tx.phase = .waitAck)) ++ BitVec.ofBool (decide (s.tx.phase ≠ .idle)) := by
  rw [State.csrTxStat, State.held_eq, State.waitingAck, State.busy]

theorem State.csrArena_eq (s : State) :
    s.csrArena = BitVec.ofNat 16 s.nbuf ++
      BitVec.ofNat 16 ((List.range s.nbuf).filter (fun h => !(s.buf h).alloc)).length := by
  rw [State.csrArena, State.freeCount_eq]

theorem State.csrCtx_eq (s : State) :
    s.csrCtx = BitVec.ofNat 16 s.nctx ++
      BitVec.ofNat 16 ((List.range s.nctx).filter (fun k => (s.ctx k).valid)).length := by
  rw [State.csrCtx, State.liveContexts_eq]

theorem State.csrValue_of_unmapped (s : State) {csr : Byte} (hcsr : 7 < csr.toNat) : s.csrValue csr = none := by
  unfold State.csrValue
  split
  iterate 8 omega
  rfl

/-! ### CSRR (45_control.md R271, R272) -/

section Csrr

variable {s : State} {csr : Byte}

/-- A mapped CSR is read while halted too (60_exceptions.md R292). -/
theorem exec_csrr_of_mapped {v : Word32} (hv : s.csrValue csr = some v) :
    exec (.csrr csr) s = .next { s with response := some ⟨.ok, v⟩ } := by
  change execCsrr csr s = .next (s.respond .ok v)
  rw [execCsrr, hv]

theorem exec_csrr_of_unmapped (hr : s.halted = false) (hcsr : 7 < csr.toNat) :
    exec (.csrr csr) s =
      .next { s with fault := ⟨true, .badCsr, 0x40#8, csr⟩, response := some ⟨.fault, 0⟩ } := by
  change execCsrr csr s = .next (s.raise Opcode.csrr.code .badCsr csr)
  rw [execCsrr, State.csrValue_of_unmapped s hcsr]
  exact whenRunning_of_running hr

end Csrr

/-- Settles O50: each mapped number reads its register, whose fields are those of the state. -/
theorem csrrAnswersTheRegister : Obligations.CsrrAnswersTheRegister := fun s =>
  ⟨exec_csrr_of_mapped (congrArg some s.csrCfg_eq),
    exec_csrr_of_mapped rfl,
    exec_csrr_of_mapped (congrArg some s.csrTxStat_eq),
    exec_csrr_of_mapped rfl,
    exec_csrr_of_mapped (congrArg some s.csrArena_eq),
    exec_csrr_of_mapped (congrArg some s.csrCtx_eq),
    exec_csrr_of_mapped rfl,
    exec_csrr_of_mapped rfl,
    fun _ hcsr hr => exec_csrr_of_unmapped hr hcsr⟩

/-! ### CSRW (45_control.md R274 to R276) -/

section Csrw

variable {s : State} {csr : Byte} {val : Word32}

theorem writeCfg_of_bound (val : Word32) (hb : s.cfg.bound = true) :
    writeCfg val s = s.respond .errAlreadyBound 0#32 := if_pos hb

theorem writeCfg_of_unbound (val : Word32) (hb : s.cfg.bound = false) :
    writeCfg val s = ({ s with cfg :=
      { localEid := val.extractLsb' 0 8, bound := val.getLsbD 8, gatePolicy := GatePolicy.ofBit (val.getLsbD 9) } }
        : State).respond .ok 0#32 := by
  rw [writeCfg, hb]
  rfl

theorem execCsrw_cfg (val : Word32) (hr : s.halted = false) :
    execCsrw 0x00#8 val s = .next (writeCfg val s) := whenRunning_of_running hr

theorem execCsrw_gate (val : Word32) (hr : s.halted = false) :
    execCsrw 0x01#8 val s = .next (writeGate val s) := whenRunning_of_running hr

/-- Every number but those of CFG and GATE is read-only or unmapped. -/
theorem execCsrw_other (val : Word32) (hr : s.halted = false) (hcsr : 2 ≤ csr.toNat) :
    execCsrw csr val s =
      if csr.toNat ≤ 7 then .next (s.respond .ok 0#32) else .next (s.raise 0x41#8 .badCsr csr) := by
  rw [execCsrw, whenRunning_of_running hr]
  split
  · omega
  · omega
  · rfl

end Csrw

/-- Settles O51, by the two cases of the write of CFG. -/
theorem csrwRegistersTheBus : Obligations.CsrwRegistersTheBus := by
  intro s val hr
  refine ⟨fun hb => ?_, fun hb => ?_⟩
  · exact (execCsrw_cfg val hr).trans (congrArg _ (writeCfg_of_bound val hb))
  · exact (execCsrw_cfg val hr).trans (congrArg _ (writeCfg_of_unbound val hb))

/-- Settles O52, by what CSRW does at each number. -/
theorem csrwWritesTheGateAndNoReadOnlyRegister : Obligations.CsrwWritesTheGateAndNoReadOnlyRegister := by
  intro s val hr
  refine ⟨execCsrw_gate val hr, fun csr hlow hhigh => ?_, fun csr hcsr => ?_⟩
  · exact (execCsrw_other val hr hlow).trans (if_pos hhigh)
  · exact (execCsrw_other val hr (by omega)).trans (if_neg (Nat.not_le.mpr hcsr))

/-! ### What leaves CFG and GATE alone (45_control.md R274, R276; 70_reset_and_hazards.md R338) -/

/-- From `s` to `t` neither CFG nor GATE changes. -/
def State.keepsConfig (s t : State) : Prop := t.cfg = s.cfg ∧ t.gate = s.gate

section Config

variable {s t : State}

theorem State.finish_keepsConfig (s : State) (code : Status) : s.keepsConfig (s.finish code) := by
  rw [State.finish_frame]
  exact ⟨rfl, rfl⟩

theorem reassemble_keepsConfig (s : State) (hd : Header) (pay : List Byte) : s.keepsConfig (reassemble s hd pay) := by
  rw [reassemble_frame]
  exact ⟨rfl, rfl⟩

theorem CommandEffect.keepsConfig {i : Instr} (h : CommandEffect i s t) (hcsrw : ∀ csr val, i ≠ .csrw csr val) :
    s.keepsConfig t := by
  cases h with
  | wroteCfg | wroteGate => exact absurd rfl (hcsrw _ _)
  | received => exact reassemble_keepsConfig (s.consumed _) _ _
  | sendFailed => exact State.finish_keepsConfig s.retirePacket .errBinding
  | messageSent => exact State.finish_keepsConfig s.ackPacket .ok
  | _ => exact ⟨rfl, rfl⟩

/-- CSRW is the one command that writes CFG, and it does not write a bound one. -/
theorem CommandEffect.cfg_of_bound {i : Instr} (h : CommandEffect i s t) (hb : s.cfg.bound = true) : t.cfg = s.cfg := by
  by_cases hcsrw : ∃ csr val, i = .csrw csr val
  · obtain ⟨csr, val, rfl⟩ := hcsrw
    cases h with
    | wroteCfg => rw [writeCfg_of_bound val hb, State.respond_cfg]
    | answered | faulted | wroteGate => rfl
  · obtain ⟨hcfg, -⟩ := h.keepsConfig fun csr val hi => hcsrw ⟨csr, val, hi⟩
    exact hcfg

theorem TurnEffect.keepsConfig (h : TurnEffect s t) : s.keepsConfig t := by
  cases h with
  | nothing => exact ⟨rfl, rfl⟩
  | ended code => exact State.finish_keepsConfig s code
  | sent b _ _ _ hsend =>
    obtain ⟨_, _, u, hw, rfl⟩ := sendPacket_next hsend
    obtain ⟨-, rfl⟩ := State.arenaWriteN_some hw
    exact ⟨rfl, rfl⟩

theorem StepEffect.cfg_of_bound (h : StepEffect s t) (hb : s.cfg.bound = true)
    (hreset : ∀ rest, s.inputs ≠ .reset :: rest) : t.cfg = s.cfg := by
  cases h with
  | idle | turnedAway | undecodable => rfl
  | command _ rest _ _ _ _ he => exact he.cfg_of_bound (s := s.begin rest) hb
  | turn _ _ _ he =>
    obtain ⟨hcfg, -⟩ := he.keepsConfig
    exact hcfg
  | reset rest hin => exact absurd hin (hreset rest)

end Config

/-- Settles O22, by the cases of what a command and a step can do. -/
theorem configurationIsFrozenOnceBound : Obligations.ConfigurationIsFrozenOnceBound :=
  ⟨fun _ _ _ hcsrw h => (exec_effect h).keepsConfig hcsrw, fun _ _ hb hreset h => (step_effect h).cfg_of_bound hb hreset⟩

end Sys2Proof.Machine
end

section
/-! PROOF. The exception model (60_exceptions.md R290 to R295): a command records a fault or leaves FAULT alone, a halted
engine gives responses only, and a status error is a response only. -/

namespace Sys2Proof.Machine

/-! ### A command that faults (60_exceptions.md R291) -/

section Faults

variable {i : Instr} {s t : State}

theorem State.finish_fault (s : State) (code : Status) : (s.finish code).fault = s.fault := by
  rw [State.finish_frame]

theorem reassemble_fault (s : State) (hd : Header) (pay : List Byte) : (reassemble s hd pay).fault = s.fault := by
  rw [reassemble_frame]

theorem writeCfg_fault (val : Word32) (s : State) : (writeCfg val s).fault = s.fault := by
  unfold writeCfg
  split <;> rfl

/-- A command leaves FAULT as it is, or its whole effect is a recorded fault. -/
theorem CommandEffect.fault_cases (h : CommandEffect i s t) :
    t.fault = s.fault ∨ ∃ c info, c ≠ .noFault ∧ t = s.raise i.opcode.code c info := by
  cases h with
  | faulted c info hc => exact .inr ⟨c, info, hc, rfl⟩
  | received => exact .inl (reassemble_fault (s.consumed _) _ _)
  | sendFailed => exact .inl (State.finish_fault s.retirePacket .errBinding)
  | messageSent => exact .inl (State.finish_fault s.ackPacket .ok)
  | wroteCfg => exact .inl (writeCfg_fault _ s)
  | _ => exact .inl rfl

theorem State.halted_eq_of_fault_eq (h : t.fault = s.fault) : t.halted = s.halted := congrArg FaultReg.valid h

end Faults

/-- Settles O16: a command that leaves FAULT alone does not halt a running engine, so one that halts it recorded a fault. -/
theorem faultsHaveNoOtherEffect : Obligations.FaultsHaveNoOtherEffect := by
  intro i s t hr h hhalted
  obtain hfault | ⟨c, info, hc, rfl⟩ := (exec_effect h).fault_cases
  · have hrunning : t.halted = false := (State.halted_eq_of_fault_eq hfault).trans hr
    exact absurd hhalted (by simp [hrunning])
  · exact ⟨rfl, hc⟩

/-! ### The halted engine (60_exceptions.md R292) -/

/-- Every command but CSRR runs under the guard of the halted engine, whatever it does there. -/
theorem exec_eq_whenRunning {i : Instr} (hi : ∀ csr, i ≠ .csrr csr) (s : State) :
    ∃ k : Result, exec i s = whenRunning s k := by
  cases i with
  | csrr csr => exact absurd rfl (hi csr)
  | _ => exact ⟨_, rfl⟩

theorem State.csrValue_of_mapped (s : State) {csr : Byte} (hcsr : csr.toNat ≤ 7) : ∃ v, s.csrValue csr = some v := by
  unfold State.csrValue
  interval_cases csr.toNat <;> exact ⟨_, rfl⟩

section Halted

variable {s t : State} (hh : s.halted = true)
include hh

theorem execCsrr_of_halted {csr : Byte} (hcsr : 7 < csr.toNat) :
    execCsrr csr s = .next (s.respond .faulted 0#32) := by
  rw [execCsrr, State.csrValue_of_unmapped s hcsr]
  exact whenRunning_of_halted hh

theorem exec_of_halted {i : Instr} (hi : ∀ csr, i = .csrr csr → 7 < csr.toNat) :
    exec i s = .next (s.respond .faulted 0#32) := by
  by_cases hcsrr : ∃ csr, i = .csrr csr
  · obtain ⟨csr, rfl⟩ := hcsrr
    exact execCsrr_of_halted hh (hi csr rfl)
  · obtain ⟨k, e⟩ := exec_eq_whenRunning (fun csr heq => hcsrr ⟨csr, heq⟩) s
    exact e.trans (whenRunning_of_halted hh)

/-- CSRR of a mapped CSR reads, and every other command is turned away: no command does more than answer. -/
theorem exec_respond_of_halted (i : Instr) : ∃ st data, exec i s = .next (s.respond st data) := by
  by_cases hi : ∀ csr, i = .csrr csr → 7 < csr.toNat
  · exact ⟨.faulted, 0#32, exec_of_halted hh hi⟩
  · push Not at hi
    obtain ⟨csr, rfl, hcsr⟩ := hi
    obtain ⟨v, hv⟩ := s.csrValue_of_mapped hcsr
    exact ⟨.ok, v, exec_csrr_of_mapped hv⟩

theorem runTransaction_of_error_of_halted {words : List Word64} {e : DecodeError} (herr : decode words = .error e)
    (he : e ≠ .notATransaction) : runTransaction words s = .next (s.respond .faulted 0#32) := by
  rw [runTransaction, herr]
  cases e with
  | notATransaction => exact absurd rfl he
  | illegalOpcode | reservedField => exact whenRunning_of_halted hh

/-- The command port of a halted engine only answers, whatever it is offered. -/
theorem runTransaction_respond_of_halted {words : List Word64} (h : runTransaction words s = .next t) :
    ∃ st data, t = s.respond st data := by
  obtain ⟨i, -, e⟩ | ⟨c, -, e⟩ | e := runTransaction_cases words s <;> rw [e] at h
  · obtain ⟨st, data, e⟩ := exec_respond_of_halted hh i
    rw [e] at h
    cases h
    exact ⟨st, data, rfl⟩
  · rw [decodeFault, whenRunning_of_halted hh] at h
    cases h
    exact ⟨.faulted, 0#32, rfl⟩
  · cases h

theorem txEngineStep_of_halted : txEngineStep s = .next s :=
  txEngineStep_of_disabled (by simp [State.txEnabled, hh])

/-- Until it is reset a halted engine keeps the record of its first fault. -/
theorem step_fault_of_halted (hreset : ∀ rest, s.inputs ≠ .reset :: rest) (h : step s = .next t) :
    t.fault = s.fault := by
  obtain ⟨-, e⟩ | ⟨words, rest, -, e⟩ | ⟨rest, -, e⟩ | ⟨rest, hin, -⟩ := step_cases s
  · rw [e] at h
    cases h
    rfl
  · obtain ⟨st, data, rfl⟩ := runTransaction_respond_of_halted (s := s.begin rest) hh (e.symm.trans h)
    rfl
  · rw [e, txEngineStep_of_halted (s := s.begin rest) hh] at h
    cases h
    rfl
  · exact absurd hin (hreset rest)

end Halted

/-- Settles O17: a halted engine answers and does no more, whoever's turn it is, and reset clears FAULT. -/
theorem haltedEngineExecutesOnlyCsrr : Obligations.HaltedEngineExecutesOnlyCsrr := by
  intro s hh
  refine ⟨fun csr hcsr => ?_, fun i hi => exec_of_halted hh hi,
    fun words e herr he => runTransaction_of_error_of_halted hh herr he, txEngineStep_of_halted hh,
    fun t hreset h => ?_, fun rest hin => ⟨_, step_reset hin, resetStep_halted _⟩⟩
  · obtain ⟨v, hv⟩ := s.csrValue_of_mapped hcsr
    exact ⟨v, hv, exec_csrr_of_mapped hv⟩
  · have hfault := step_fault_of_halted hh hreset h
    exact ⟨(State.halted_eq_of_fault_eq hfault).trans hh, hfault⟩

/-! ### The status errors (60_exceptions.md R295) -/

/-- A dropped packet is no status error. -/
theorem Status.isError_of_isDrop {st : Status} (h : st.isDrop = true) : st.isError = false := by
  cases st with
  | rxDropVersion | rxDropRoute | rxDropLength | rxDropNoCtx | rxDropSeq | rxDropOverflow | rxDropNoSlot => rfl
  | _ => contradiction

/-- The response that stands in `t` is there and is no status error. -/
def State.answersNoError (t : State) : Prop := ∃ st data, t.response = some ⟨st, data⟩ ∧ st.isError = false

theorem reassemble_answersNoError (s : State) (hd : Header) (pay : List Byte) :
    (reassemble s hd pay).answersNoError := by
  obtain ⟨st, data, hresponse, hst⟩ := (reassemble_answersPacket s hd pay).response
  refine ⟨st, data, hresponse, ?_⟩
  obtain rfl | rfl | hdrop := hst
  · rfl
  · rfl
  · exact Status.isError_of_isDrop hdrop

/-- A command changes nothing but its response, or it answers no status error. -/
theorem CommandEffect.respond_or_answersNoError {i : Instr} {s t : State} (h : CommandEffect i s t) :
    (∃ st data, t = s.respond st data) ∨ t.answersNoError := by
  cases h with
  | answered st data => exact .inl ⟨st, data, rfl⟩
  | received => exact .inr (reassemble_answersNoError (s.consumed _) _ _)
  | @wroteCfg _ _ val _ =>
    cases hb : s.cfg.bound with
    | true => exact .inl ⟨.errAlreadyBound, 0#32, writeCfg_of_bound val hb⟩
    | false => exact .inr ⟨.ok, 0#32, by rw [writeCfg_of_unbound val hb]; rfl, rfl⟩
  | _ => exact .inr ⟨_, _, rfl, rfl⟩

/-- Settles O18: a command that changes more than its response does not answer a status error. -/
theorem statusErrorsChangeNothing : Obligations.StatusErrorsChangeNothing := by
  intro i s t st data h hresponse herr
  obtain ⟨st', data', rfl⟩ | ⟨st', data', hresponse', hno⟩ := (exec_effect h).respond_or_answersNoError
  · cases hresponse
    rfl
  · cases hresponse'.symm.trans hresponse
    exact absurd herr (by simp [hno])

end Sys2Proof.Machine
end
